-- ==== Sys2Proof/Word.lean ====
section
/-! DEFINITION. The bit-vector types of ATP-DCE (00_scope.md R8): every value the block holds is an unsigned
number of 4, 8, 16 or 32 bits. Nothing here is more than a name for a width. -/

namespace Sys2Proof

/-- `u8` (R8): a byte of a frame, of a buffer, of an accumulator, of an operand field. -/
abbrev Byte := BitVec 8

/-- `u16` (R8): the position, on both directions of the link. -/
abbrev Half := BitVec 16

/-- `u32` (R8): a command word, or the value of a register of the window (R35, R68). -/
abbrev Word := BitVec 32

/-- The four bits of `ERR` (10_state.md R31). -/
abbrev ErrBits := BitVec 4

end Sys2Proof
end

