-- ==== Sys2Proof/Config.lean ====
section
/-! DEFINITION. The implementation parameters of 00_scope.md R6. "A model takes each as an argument": the shared
operations take a `Params`; the hardware of this spec is `Params.hw`, whose OPEN entries are constants without a
body, so that no proof can see their value. -/

namespace Sys2Proof

/-- The thirteen parameters of R6, under the spec's names. -/
structure Params where
  /-- `P_ACK_LEN`: the received bytes `DECACK` needs when verification is off. -/
  ackLen : Nat
  /-- `P_RX_CAP`: capacity of the receive buffer. -/
  rxCap : Nat
  /-- `P_TX_CAP`: capacity of the transmit buffer. -/
  txCap : Nat
  /-- `P_LEN_ADJ`: added to the payload byte count to form the length byte. -/
  lenAdj : Nat
  /-- `P_ALARM_MASK`: applied to the flag byte to form `voltage_alarm`. -/
  alarmMask : Byte
  /-- `P_ACK_VERIFY`: whether `DECACK` verifies acknowledgement checksums. -/
  ackVerify : Bool
  /-- `P_ACK_CK_FIRST`: first acknowledgement offset covered by the checksums. -/
  ackCkFirst : Nat
  /-- `P_ACK_CK_LAST`: last acknowledgement offset covered by the checksums. -/
  ackCkLast : Nat
  /-- `P_ACK_ADD_AT`: offset of the received additive checksum byte. -/
  ackAddAt : Nat
  /-- `P_ACK_XOR_AT`: offset of the received XOR checksum byte. -/
  ackXorAt : Nat
  /-- `P_ACK_SEED_ADD`: additive seed of the acknowledgement verification. -/
  ackSeedAdd : Byte
  /-- `P_ACK_SEED_XOR`: XOR seed of the acknowledgement verification. -/
  ackSeedXor : Byte
  /-- `P_REG_BASE`: address of the register window in the host's address space. -/
  regBase : Nat
  deriving DecidableEq, Repr

/-- `P_ACK_MIN` (R6): `P_ACK_LEN` when verification is off, else enough bytes for every offset it reads. -/
def Params.ackMin (p : Params) : Nat :=
  if p.ackVerify then
    max p.ackLen (max (p.ackCkLast + 1) (max (p.ackAddAt + 1) (p.ackXorAt + 1)))
  else p.ackLen

/-- The legal ranges of R6's table, one clause a row, and its constraint `P_ACK_MIN <= P_RX_CAP`. The masks, seeds
and `P_REG_BASE` have every value of their type as their range. -/
structure Params.Legal (p : Params) : Prop where
  ackLen : 10 ≤ p.ackLen ∧ p.ackLen ≤ p.rxCap
  rxCap : p.rxCap ≤ 64
  txCap : 20 ≤ p.txCap ∧ p.txCap ≤ 64
  lenAdj : p.lenAdj = 0 ∨ p.lenAdj = 2
  ackCkFirst : p.ackCkFirst < p.rxCap
  ackCkLast : p.ackCkFirst ≤ p.ackCkLast ∧ p.ackCkLast < p.rxCap
  ackAddAt : p.ackAddAt < p.rxCap
  ackXorAt : p.ackXorAt < p.rxCap
  ackMin : p.ackMin ≤ p.rxCap

/-! The OPEN parameters (R6). Each is a free value inside its legal range; log entry 5. -/

/-- `P_ACK_CK_FIRST`, OPEN in 0..15 (91_not_in_source.md N5). -/
opaque Config.ackCkFirst : Fin 16

/-- The free value from which `P_ACK_CK_LAST` is formed. -/
opaque Config.ackCkLastFree : Fin 16

/-- `P_ACK_ADD_AT`, OPEN in 0..15. -/
opaque Config.ackAddAt : Fin 16

/-- `P_ACK_XOR_AT`, OPEN in 0..15. -/
opaque Config.ackXorAt : Fin 16

/-- `P_ACK_SEED_ADD`, OPEN (0xAA is only the spec's suggestion). -/
opaque Config.ackSeedAdd : Byte

/-- `P_ACK_SEED_XOR`, OPEN (0x55 is only the spec's suggestion). -/
opaque Config.ackSeedXor : Byte

/-- `P_REG_BASE`, OPEN: the platform's (20_memory.md R49). -/
opaque Config.regBase : Nat

/-- The column "this hardware" of R6's table. `P_ACK_CK_LAST` is free in `P_ACK_CK_FIRST`..15. -/
def Params.hw : Params where
  ackLen := 10
  rxCap := 16
  txCap := 32
  lenAdj := 0
  alarmMask := 0x03
  ackVerify := false
  ackCkFirst := Config.ackCkFirst.val
  ackCkLast := max Config.ackCkFirst.val Config.ackCkLastFree.val
  ackAddAt := Config.ackAddAt.val
  ackXorAt := Config.ackXorAt.val
  ackSeedAdd := Config.ackSeedAdd
  ackSeedXor := Config.ackSeedXor
  regBase := Config.regBase

end Sys2Proof
end

