-- ==== Sys2Proof/Machine/Operands.lean ====
section
/-! DEFINITION. Fields of a command word and the assembly of its operands (30_encoding.md R68, R69, R71), and the
two bytes of a position (20_memory.md R57). -/

namespace Sys2Proof.Machine

/-- `OP = w[7:0]`. -/
def fieldOp (w : Word) : Byte := w.extractLsb' 0 8

/-- `A = w[15:8]`. -/
def fieldA (w : Word) : Byte := w.extractLsb' 8 8

/-- `B = w[23:16]`. -/
def fieldB (w : Word) : Byte := w.extractLsb' 16 8

/-- `RSV = w[31:24]`. -/
def fieldRsv (w : Word) : Byte := w.extractLsb' 24 8

/-- `POS = w[23:8]`, the same bits as `{B, A}`. -/
def fieldPos (w : Word) : Half := w.extractLsb' 8 16

/-- `p[7:0]`, the byte that goes first on the wire (R57, R85). -/
def posLo (p : Half) : Byte := p.extractLsb' 0 8

/-- `p[15:8]`, the byte that goes second on the wire. -/
def posHi (p : Half) : Byte := p.extractLsb' 8 8

/-- `hi * 256 + lo`, exact on a `u16` (R9, R108). -/
def posOfBytes (lo hi : Byte) : Half := hi.setWidth 16 * 256 + lo.setWidth 16

/-- `zext_32` of a byte (R8): a byte register reads with its bits 31:8 zero. -/
def zextByte (b : Byte) : Word := b.setWidth 32

/-- `zext_32` of a half word (R8). -/
def zextHalf (h : Half) : Word := h.setWidth 32

end Sys2Proof.Machine
end

