-- ==== Sys2Proof/Syntax.lean ====
section
/-! DEFINITION. The commands of ATP-DCE, one constructor per row of spec/opcode_table.json (30_encoding.md R72). -/

namespace Sys2Proof

/-- A command with its operands (R71). An operand has exactly the width of its field, so every term is a command
the encoding admits: `A` and `B` are bytes, `POS` covers the whole range 0..65535. -/
inductive Instr where
  /-- `NOP` (R120). -/
  | nop
  /-- `CKSEED sa, sx` (R96): `A` the additive seed, `B` the XOR seed. -/
  | ckseed (sa sx : Byte)
  /-- `CKBYTE b` (R97): `A` the data byte. -/
  | ckbyte (b : Byte)
  /-- `ENCASN n` (R100): `A` the servo number. -/
  | encasn (n : Byte)
  /-- `ENCPOLL` (R101). -/
  | encpoll
  /-- `ENCMOVE p` (R102): `POS` the target position. -/
  | encmove (p : Half)
  /-- `RXCLR` (R114). -/
  | rxclr
  /-- `RXPUSH b` (R115): `A` the received byte. -/
  | rxpush (b : Byte)
  /-- `DECACK` (R116). -/
  | decack
  deriving DecidableEq, Repr

/-- The mnemonic of R72's opcode map. -/
def Instr.mnemonic : Instr → String
  | .nop => "NOP"
  | .ckseed _ _ => "CKSEED"
  | .ckbyte _ => "CKBYTE"
  | .encasn _ => "ENCASN"
  | .encpoll => "ENCPOLL"
  | .encmove _ => "ENCMOVE"
  | .rxclr => "RXCLR"
  | .rxpush _ => "RXPUSH"
  | .decack => "DECACK"

end Sys2Proof
end

