-- ==== Sys2Proof/WellFormed.lean ====
section
/-! DEFINITION. What the spec asks of a command word before it is a command (30_encoding.md R70, R74). A term of
`Instr` needs no check of its own: the type of an operand is its field's width (R71). The range check of an
assembler immediate (R77) is in Machine/Assembler.lean, the legal ranges of the parameters (R6) in Config.lean. -/

namespace Sys2Proof

open Machine

/-- The four formats of R70: which operand fields a command uses. -/
inductive Format where
  /-- Only `OP`; `A`, `B`, `RSV` must be 0. -/
  | n
  /-- `OP` and `A`; `B`, `RSV` must be 0. -/
  | a
  /-- `OP`, `A`, `B`; `RSV` must be 0. -/
  | ab
  /-- `OP` and `POS`; `RSV` must be 0. -/
  | p
  deriving DecidableEq, Repr

/-- R72's opcode map, the columns `OP` and `format`; every other opcode is unassigned. -/
def opcodeFormats : List (Byte × Format) :=
  [(0x00, .n), (0x01, .ab), (0x02, .a), (0x10, .a), (0x11, .n), (0x12, .p), (0x20, .n), (0x21, .a), (0x22, .n)]

/-- The format of an opcode, none for one that R72 does not assign. -/
def formatOf (op : Byte) : Option Format := opcodeFormats.lookup op

/-- First check of R74: the reserved field is 0. -/
def rsvClear (w : Word) : Bool := fieldRsv w == 0

/-- Second check of R74: the opcode is in the map of R72. -/
def opcodeAssigned (w : Word) : Bool := (formatOf (fieldOp w)).isSome

/-- Third check of R74: the fields that the format does not use are 0. -/
def unusedClear (w : Word) : Bool :=
  match formatOf (fieldOp w) with
  | none => true
  | some .n => fieldA w == 0 && fieldB w == 0
  | some .a => fieldB w == 0
  | some .ab => true
  | some .p => true

/-- A command word the hardware takes as a command: none of R74's three kinds of illegal word. -/
def wordWellFormed (w : Word) : Bool := rsvClear w && opcodeAssigned w && unusedClear w

end Sys2Proof
end

