-- ==== Sys2Proof/Decode.lean ====
section
/-! DEFINITION. The decoder of command words (30_encoding.md R73), total on every 32-bit word, the encoder written
from R77's table of words, and the rows of spec/opcode_table.json. -/

namespace Sys2Proof

open Machine

/-- Why a word is illegal (R74), by name. The three are one outcome for the machine (R121); the name is the
model's. -/
inductive IllegalWord where
  /-- "a word whose `RSV` field is not 0" -/
  | reservedField
  /-- "a word whose `OP` is not in the map of rule R72" -/
  | unassignedOpcode
  /-- "a non-zero value in a field its format does not use" -/
  | unusedField
  deriving DecidableEq, Repr

/-- `decode(w: u32) -> Command or Illegal` (R73). -/
inductive Decoded where
  | command (i : Instr)
  | illegal (why : IllegalWord)
  deriving DecidableEq, Repr

/-- The guard `if w[..] == 0` of R73's case list. -/
def whenClear (unused : Bool) (i : Instr) : Decoded :=
  if unused then .command i else .illegal .unusedField

/-- R73, case by case. -/
def decode (w : Word) : Decoded :=
  if fieldRsv w ≠ 0 then .illegal .reservedField
  else if fieldOp w = 0x00 then whenClear (fieldPos w == 0) .nop
  else if fieldOp w = 0x01 then .command (.ckseed (fieldA w) (fieldB w))
  else if fieldOp w = 0x02 then whenClear (fieldB w == 0) (.ckbyte (fieldA w))
  else if fieldOp w = 0x10 then whenClear (fieldB w == 0) (.encasn (fieldA w))
  else if fieldOp w = 0x11 then whenClear (fieldPos w == 0) .encpoll
  else if fieldOp w = 0x12 then .command (.encmove (fieldPos w))
  else if fieldOp w = 0x20 then whenClear (fieldPos w == 0) .rxclr
  else if fieldOp w = 0x21 then whenClear (fieldB w == 0) (.rxpush (fieldA w))
  else if fieldOp w = 0x22 then whenClear (fieldPos w == 0) .decack
  else .illegal .unassignedOpcode

/-- The word that spells a command (R77's table): `(sx << 16) | (sa << 8) | 0x01` and its like. -/
def encode : Instr → Word
  | .nop => 0x00000000
  | .ckseed sa sx => (sx.setWidth 32 <<< 16) ||| (sa.setWidth 32 <<< 8) ||| 0x01
  | .ckbyte b => (b.setWidth 32 <<< 8) ||| 0x02
  | .encasn n => (n.setWidth 32 <<< 8) ||| 0x10
  | .encpoll => 0x00000011
  | .encmove p => (p.setWidth 32 <<< 8) ||| 0x12
  | .rxclr => 0x00000020
  | .rxpush b => (b.setWidth 32 <<< 8) ||| 0x21
  | .decack => 0x00000022

/-- A row of spec/opcode_table.json: a word is the row's command when its bits under `mask` are `bits`. -/
structure OpRow where
  mnemonic : String
  bits : Word
  mask : Word
  deriving DecidableEq, Repr

/-- The nine rows of spec/opcode_table.json, columns mnemonic, match, mask. -/
def opcodeTable : List OpRow :=
  [⟨"NOP", 0x00000000, 0xFFFFFFFF⟩,
   ⟨"CKSEED", 0x00000001, 0xFF0000FF⟩,
   ⟨"CKBYTE", 0x00000002, 0xFFFF00FF⟩,
   ⟨"ENCASN", 0x00000010, 0xFFFF00FF⟩,
   ⟨"ENCPOLL", 0x00000011, 0xFFFFFFFF⟩,
   ⟨"ENCMOVE", 0x00000012, 0xFF0000FF⟩,
   ⟨"RXCLR", 0x00000020, 0xFFFFFFFF⟩,
   ⟨"RXPUSH", 0x00000021, 0xFFFF00FF⟩,
   ⟨"DECACK", 0x00000022, 0xFFFFFFFF⟩]

/-- A word fits a row of the table. -/
def OpRow.fits (r : OpRow) (w : Word) : Bool := w &&& r.mask == r.bits

/-- The command word of `nbits` bits whose value is `w`, the bits above `nbits` zero. -/
def tableWord (nbits w : Nat) : Word := BitVec.ofNat 32 (w % 2 ^ nbits)

/-- What the decoder reads from a word numbered as spec/opcode_table.json numbers it (bit 0 the least significant).
Every command is one 32-bit word (R76); there is none longer. -/
def decodeTableWord (nbits w : Nat) : Option Instr :=
  if nbits ≤ 32 then
    match decode (tableWord nbits w) with
    | .command i => some i
    | .illegal _ => none
  else none

end Sys2Proof
end

