-- ==== Sys2Proof/Machine/State.lean ====
section
/-! DEFINITION. The state of ATP-DCE: the sixteen elements of 10_state.md R13 (`Block`), and around them what the
model needs to take the host's transactions (43_system.md R122). The block has no program counter (R15), no memory
(20_memory.md R49) and no other hidden state (R32). -/

namespace Sys2Proof.Machine

/-- "The block's architectural state is exactly the elements of rules R16 to R31" (R13), in that order. -/
structure Block where
  /-- `ACC_ADD` (R16). -/
  accAdd : Byte
  /-- `ACC_XOR` (R17). -/
  accXor : Byte
  /-- `TXBUF[0..P_TX_CAP-1]` (R18), offset 0 first. -/
  txbuf : List Byte
  /-- `TXLEN` (R19). -/
  txlen : Byte
  /-- `RXBUF[0..P_RX_CAP-1]` (R20), offset 0 first. -/
  rxbuf : List Byte
  /-- `RXCNT` (R21). -/
  rxcnt : Byte
  /-- `ACK_POS` (R22). -/
  ackPos : Half
  /-- `ACK_VOLT` (R23). -/
  ackVolt : Byte
  /-- `ACK_TORQ` (R24). -/
  ackTorq : Byte
  /-- `ACK_ENGAGED` (R25). -/
  ackEngaged : Bool
  /-- `ACK_SLIPPING` (R26). -/
  ackSlipping : Bool
  /-- `ACK_VALARM` (R27). -/
  ackValarm : Bool
  /-- `ACK_RAWFLAGS` (R28). -/
  ackRawflags : Byte
  /-- `ACK_RAWCNT` (R29). -/
  ackRawcnt : Byte
  /-- `ACK_VALID` (R30). -/
  ackValid : Bool
  /-- `ERR` (R31). -/
  err : ErrBits
  deriving DecidableEq, Repr

/-- The reset value of every element (R144). -/
def Block.reset (p : Params) : Block where
  accAdd := 0xAA
  accXor := 0x55
  txbuf := List.replicate p.txCap 0
  txlen := 0
  rxbuf := List.replicate p.rxCap 0
  rxcnt := 0
  ackPos := 0
  ackVolt := 0
  ackTorq := 0
  ackEngaged := false
  ackSlipping := false
  ackValarm := false
  ackRawflags := 0
  ackRawcnt := 0
  ackValid := false
  err := 0

/-- A host transaction (R122), before it is known whether the interface contract admits it (20_memory.md R50):
the width is in bytes, the offset counts from `P_REG_BASE`. -/
inductive Transaction where
  /-- A write of `v`, `width` bytes wide, at offset `off`. -/
  | write (width off : Nat) (v : Word)
  /-- A read, `width` bytes wide, at offset `off`. -/
  | read (width off : Nat)
  /-- The reset input (70_reset_and_hazards.md R144). -/
  | reset
  deriving DecidableEq, Repr

/-- The model's state. `block` is the spec's state; the other three fields are the model's own (log entries 1 to
3): they are the block's port, not registers of the block. -/
structure State where
  /-- The sixteen elements of R13. -/
  block : Block
  /-- A reset has been taken since power was applied (R145). -/
  started : Bool
  /-- The host's transactions that the port has yet to take, in the order it receives them (R62). -/
  pending : List Transaction
  /-- The values the block has given back for reads (R122, `Read(off) -> u32`), oldest first. -/
  replies : List Word
  deriving DecidableEq, Repr

/-- The launch state (R145): the block at the values of R144, no transaction waiting. -/
def State.reset : State where
  block := Block.reset Params.hw
  started := true
  pending := []
  replies := []

/-- The machine has no fault: "there is no trap, no interrupt and no halt" (R121), and every error is a result code
in `ERR` after which the block goes on (R133). Nobody raises one, so the type has no constructor (log entry 6). -/
inductive Fault : Type
  deriving DecidableEq, Repr

/-- Why a transaction is refused (20_memory.md R56, 70_reset_and_hazards.md R145): it is outside the interface
contract, and the model gives it no meaning. Refusing is safe: no claim covers a run that contains one. -/
inductive Refusal where
  /-- An instruction without a meaning in the model. Nothing raises it; safe. -/
  | notModelled (mnemonic : String)
  /-- Raised by `accessRefusal` (Machine/Port.lean): an access of a width other than 32 bits (R50); safe. -/
  | accessWidth (width : Nat)
  /-- Raised by `accessRefusal`: an access at an offset that is not a multiple of 4 (R50); safe. -/
  | misalignedOffset (off : Nat)
  /-- Raised by `accessRefusal`: an access at an offset beyond 0x3FC, outside the window (R49); the spec leaves
  it to the platform (R60), and refusing it is the model's choice (log entry 13); safe. -/
  | outsideWindow (off : Nat)
  /-- Raised by `take`: a transaction other than reset before the first reset (R145); safe. -/
  | beforeFirstReset
  deriving DecidableEq, Repr

/-- The outcome of a step or of a command. -/
abbrev Out := Host.Outcome State Fault Refusal

end Sys2Proof.Machine
end

