-- ==== Sys2Proof/Machine/Ops.lean ====
section
/-! DEFINITION. The named operations every command is written with: how a command ends (00_scope.md R11,
60_exceptions.md R126, R133), the writes to each group of registers, the two buffers, and the port. -/

namespace Sys2Proof.Machine

/-! ## How a command ends -/

/-- The error kinds a command can raise (R126). -/
inductive BlockError where
  | truncatedFrame
  | checksumMismatch
  | illegalCommand
  | rxOverflow
  deriving DecidableEq, Repr

/-- The code of `OK` (R126). -/
def okCode : ErrBits := 0

/-- `code(E)` (R126). -/
def BlockError.code : BlockError → ErrBits
  | .truncatedFrame => 1
  | .checksumMismatch => 2
  | .illegalCommand => 3
  | .rxOverflow => 4

/-- `ERR <- e`. -/
def Block.setErr (e : ErrBits) (k : Block) : Block := { k with err := e }

/-- `ok`: ends the command with `ERR <- OK` (R11). -/
def Block.ok (k : Block) : Block := k.setErr okCode

/-- `raise E` (R11), the block's error entry (R133): "the command ends with `ERR <- code`"; no state is saved, no
mode or mask changes and no vector is taken. There is no return from it (R134): the next command runs normally. -/
def Block.raise (e : BlockError) (k : Block) : Block := k.setErr e.code

/-! ## Groups of registers -/

/-- `ACC_ADD <- a; ACC_XOR <- x`. -/
def Block.setAcc (a x : Byte) (k : Block) : Block := { k with accAdd := a, accXor := x }

/-- `TXBUF` and `TXLEN`. -/
def Block.setTx (buf : List Byte) (len : Byte) (k : Block) : Block := { k with txbuf := buf, txlen := len }

/-- `RXBUF` and `RXCNT`. -/
def Block.setRx (buf : List Byte) (cnt : Byte) (k : Block) : Block := { k with rxbuf := buf, rxcnt := cnt }

/-- `ACK_RAWCNT <- n`. -/
def Block.setRawcnt (n : Byte) (k : Block) : Block := { k with ackRawcnt := n }

/-- The `status` that `decode_ack` returns (42_ack_decoder.md R106): the source's `ServoAckStatus` and the raw flag
byte. -/
structure AckStatus where
  position : Half
  voltage : Byte
  torque : Byte
  engaged : Bool
  slipping : Bool
  voltageAlarm : Bool
  rawflags : Byte
  rawcnt : Byte
  deriving DecidableEq, Repr

/-- The ack result registers that a successful `DECACK` writes, with `ACK_VALID <- true` (R116). -/
def Block.setAck (st : AckStatus) (k : Block) : Block :=
  { k with
    ackPos := st.position
    ackVolt := st.voltage
    ackTorq := st.torque
    ackEngaged := st.engaged
    ackSlipping := st.slipping
    ackValarm := st.voltageAlarm
    ackRawflags := st.rawflags
    ackRawcnt := st.rawcnt
    ackValid := true }

/-- `clear_ack()` (R116): every ack result register but `ACK_RAWCNT`, and `ACK_VALID <- false`. -/
def Block.clearAck (k : Block) : Block :=
  { k with
    ackPos := 0
    ackVolt := 0
    ackTorq := 0
    ackEngaged := false
    ackSlipping := false
    ackValarm := false
    ackRawflags := 0
    ackValid := false }

/-! ## Byte sequences and the buffers -/

/-- `s[i]` of a byte sequence (R10). The rules index inside the sequence only; beyond it the model reads 0 (log
entry 8). -/
def byteAt (s : List Byte) (i : Nat) : Byte := s.getD i 0

/-- `s[i..j]` (R10): the elements with index i through j inclusive, empty when j < i. -/
def slice (s : List Byte) (i j : Nat) : List Byte := (s.drop i).take (j + 1 - i)

/-- A buffer of `cap` bytes that holds `f` from index 0 and 0x00 after it: the loop of R99. -/
def padTo (cap : Nat) (f : List Byte) : List Byte := (List.range cap).map (byteAt f)

/-- `write_frame(f)` (41_codec.md R99): the whole buffer, the length, and the two trailer bytes into the
accumulators. -/
def Block.writeFrame (p : Params) (f : List Byte) (k : Block) : Block :=
  (k.setTx (padTo p.txCap f) (BitVec.ofNat 8 f.length)).setAcc
    (byteAt f (f.length - 2)) (byteAt f (f.length - 1))

/-- The receive buffer emptied (R114). -/
def Block.clearRx (p : Params) (k : Block) : Block := k.setRx (List.replicate p.rxCap 0) 0

/-- `RXBUF[RXCNT] <- a; RXCNT <- RXCNT + 1` (R115): the block's only store with an address, post-incremented
(43_system.md R125). -/
def Block.storeRx (a : Byte) (k : Block) : Block := k.setRx (k.rxbuf.set k.rxcnt.toNat a) (k.rxcnt + 1)

/-! ## The port -/

/-- A change of the block that leaves the port alone. -/
def State.onBlock (f : Block → Block) (s : State) : State := { s with block := f s.block }

/-- The port after it has taken its first waiting transaction. -/
def State.pop (s : State) : State := { s with pending := s.pending.tail }

/-- The block has given the value `v` back for a read. -/
def State.answer (v : Word) (s : State) : State := { s with replies := s.replies ++ [v] }

/-- The state elements at their reset values, and the block ready for transactions (R144, R145). -/
def State.takeReset (s : State) : State := { s with block := Block.reset Params.hw, started := true }

/-- One command (R12): atomic, a change of the block, always completed. -/
def command (f : Block → Block) (s : State) : Host.Outcome State Fault Refusal := .next (s.onBlock f)

end Sys2Proof.Machine
end

