-- ==== Sys2Proof/Machine/Checksum.lean ====
section
/-! DEFINITION. The Checksum Engine (40_checksum.md): the two functions and the commands `CKSEED`, `CKBYTE`. -/

namespace Sys2Proof.Machine

/-- `SEED_ADD` (00_scope.md R7). -/
def seedAdd : Byte := 0xAA

/-- `SEED_XOR` (R7). -/
def seedXor : Byte := 0x55

/-- `ck_add(bs, s)` (R91): the running sum, masked to 8 bits after each addition. -/
def ckAdd (bs : List Byte) (s : Byte) : Byte := bs.foldl (fun acc b => acc + b) s

/-- `ck_xor(bs, s)` (R92): the running exclusive or. -/
def ckXor (bs : List Byte) (s : Byte) : Byte := bs.foldl (fun acc b => acc ^^^ b) s

/-- `CKSEED` (R96). -/
def Block.ckseed (sa sx : Byte) (k : Block) : Block := (k.setAcc sa sx).ok

/-- `CKBYTE` (R97). -/
def Block.ckbyte (b : Byte) (k : Block) : Block := (k.setAcc (k.accAdd + b) (k.accXor ^^^ b)).ok

/-- The command `CKSEED sa, sx` (R96). -/
def execCkseed (sa sx : Byte) (s : State) : Host.Outcome State Fault Refusal := command (Block.ckseed sa sx) s

/-- The command `CKBYTE b` (R97). -/
def execCkbyte (b : Byte) (s : State) : Host.Outcome State Fault Refusal := command (Block.ckbyte b) s

end Sys2Proof.Machine
end

