-- ==== Sys2Proof/Machine/Flags.lean ====
section
/-! DEFINITION. The block's flags: the three status flags of an acknowledgement (42_ack_decoder.md R110 to R112) and
the two registers that pack flags (10_state.md R37, R45). The arithmetic commands have none: `CKBYTE` "sets no carry
or overflow indication anywhere" (40_checksum.md R97). -/

namespace Sys2Proof.Machine

/-- `ENGAGED_MASK` (00_scope.md R7). -/
def engagedMask : Byte := 0x01

/-- `SLIP_MASK` (R7). -/
def slipMask : Byte := 0x02

/-- `(f and mask) != 0`. -/
def flagSet (f mask : Byte) : Bool := f &&& mask != 0

/-- `engaged` (R110). -/
def engagedOf (f : Byte) : Bool := flagSet f engagedMask

/-- `slipping` (R111). -/
def slippingOf (f : Byte) : Bool := flagSet f slipMask

/-- `voltage_alarm` (R112), with the one mask a corrected device protocol would change. -/
def alarmOf (p : Params) (f : Byte) : Bool := flagSet f p.alarmMask

/-- `STATUS` (R37): bits 3:0 `ERR`, bit 4 `ACKV`, the rest 0. -/
def Block.statusWord (k : Block) : Word := (0#27 ++ BitVec.ofBool k.ackValid ++ k.err : BitVec 32)

/-- `ACKFLAGS` (R45): bits 0 to 2 the three flags, 15:8 the raw flag byte, the rest 0. -/
def Block.ackFlagsWord (k : Block) : Word :=
  (0#16 ++ k.ackRawflags ++ 0#5 ++ BitVec.ofBool k.ackValarm ++ BitVec.ofBool k.ackSlipping
    ++ BitVec.ofBool k.ackEngaged : BitVec 32)

end Sys2Proof.Machine
end

