-- ==== Sys2Proof/Machine/AckDecoder.lean ====
section
/-! DEFINITION. The Acknowledgement Decoder (42_ack_decoder.md) and the wire format of the acknowledgement
(30_encoding.md R88 to R90): the pure function `decode_ack` and the commands `RXCLR`, `RXPUSH`, `DECACK`. -/

namespace Sys2Proof.Machine

/-- `ACK_FLAGS_AT` (00_scope.md R7). -/
def ackFlagsAt : Nat := 5

/-- `ACK_POS_LO_AT` (R7). -/
def ackPosLoAt : Nat := 6

/-- `ACK_POS_HI_AT` (R7). -/
def ackPosHiAt : Nat := 7

/-- `ACK_VOLT_AT` (R7). -/
def ackVoltAt : Nat := 8

/-- `ACK_TORQ_AT` (R7). -/
def ackTorqAt : Nat := 9

/-- The fields of R88's map, from a byte sequence whose first `cnt` bytes were received. -/
def ackFields (p : Params) (bs : List Byte) (cnt : Byte) : AckStatus :=
  let f := byteAt bs ackFlagsAt
  { position := posOfBytes (byteAt bs ackPosLoAt) (byteAt bs ackPosHiAt)
    voltage := byteAt bs ackVoltAt
    torque := byteAt bs ackTorqAt
    engaged := engagedOf f
    slipping := slippingOf f
    voltageAlarm := alarmOf p f
    rawflags := f
    rawcnt := cnt }

/-- The bytes the acknowledgement checksums cover (R113). -/
def ackSegment (p : Params) (bs : List Byte) : List Byte := slice bs p.ackCkFirst p.ackCkLast

/-- The recomputed additive checksum of an acknowledgement (R113). -/
def ackAdd (p : Params) (bs : List Byte) : Byte := ckAdd (ackSegment p bs) p.ackSeedAdd

/-- The recomputed XOR checksum of an acknowledgement (R113). -/
def ackXor (p : Params) (bs : List Byte) : Byte := ckXor (ackSegment p bs) p.ackSeedXor

/-- `verify_ack(bs)` (R113). -/
def verifyAck (p : Params) (bs : List Byte) : Bool :=
  ackAdd p bs == byteAt bs p.ackAddAt && ackXor p bs == byteAt bs p.ackXorAt

/-- `decode_ack(bs)` (R106), the pure function: the length check comes before every read. -/
def decodeAck (p : Params) (bs : List Byte) : Except BlockError AckStatus :=
  if bs.length < p.ackMin then .error .truncatedFrame
  else if p.ackVerify && !verifyAck p bs then .error .checksumMismatch
  else .ok (ackFields p bs (BitVec.ofNat 8 bs.length))

/-- `RXCLR` (R114). -/
def Block.rxclr (p : Params) (k : Block) : Block := (k.clearRx p).ok

/-- `RXPUSH` (R115): into a full buffer nothing is stored. -/
def Block.rxpush (p : Params) (a : Byte) (k : Block) : Block :=
  if k.rxcnt.toNat = p.rxCap then k.raise .rxOverflow else (k.storeRx a).ok

/-- The last part of `DECACK` (R116): the fields are decoded. -/
def Block.acceptAck (p : Params) (k : Block) : Block := (k.setAck (ackFields p k.rxbuf k.rxcnt)).ok

/-- A failing `DECACK` (R116): `clear_ack()`, then `raise E`. -/
def Block.rejectAck (e : BlockError) (k : Block) : Block := k.clearAck.raise e

/-- The verifying part of `DECACK` (R116), after the length check and with `P_ACK_VERIFY = true`: the accumulators
are left holding the recomputed checksums. -/
def Block.verifyThenAccept (p : Params) (k : Block) : Block :=
  let k' := k.setAcc (ackAdd p k.rxbuf) (ackXor p k.rxbuf)
  if k'.accAdd ≠ byteAt k.rxbuf p.ackAddAt ∨ k'.accXor ≠ byteAt k.rxbuf p.ackXorAt then
    k'.rejectAck .checksumMismatch
  else k'.acceptAck p

/-- `DECACK` (R116). -/
def Block.decack (p : Params) (k : Block) : Block :=
  let k' := k.setRawcnt k.rxcnt
  if k.rxcnt.toNat < p.ackMin then k'.rejectAck .truncatedFrame
  else if p.ackVerify then k'.verifyThenAccept p
  else k'.acceptAck p

/-- The command `RXCLR` (R114). -/
def execRxclr (s : State) : Host.Outcome State Fault Refusal := command (Block.rxclr Params.hw) s

/-- The command `RXPUSH a` (R115). -/
def execRxpush (a : Byte) (s : State) : Host.Outcome State Fault Refusal := command (Block.rxpush Params.hw a) s

/-- The command `DECACK` (R116). -/
def execDecack (s : State) : Host.Outcome State Fault Refusal := command (Block.decack Params.hw) s

end Sys2Proof.Machine
end

