-- ==== Sys2Proof/Machine/Codec.lean ====
section
/-! DEFINITION. The Message Codec (41_codec.md) and the wire format of outbound frames (30_encoding.md R79 to R87):
the commands `ENCASN`, `ENCPOLL`, `ENCMOVE`. -/

namespace Sys2Proof.Machine

/-- `PREAMBLE` (00_scope.md R7). -/
def preamble : List Byte := [0xD5, 0x82]

/-- `ASN_HDR` (R7). -/
def asnHdr : List Byte := [0x00, 0x00, 0xAA, 0x55]

/-- `POS_HDR` (R7). -/
def posHdr : List Byte := [0x01, 0x00]

/-- `RESPOND` (R7). -/
def respond : Byte := 0x01

/-- `OPT_POLL` (R7). -/
def optPoll : Byte := 0x00

/-- `OPT_MOVE` (R7). -/
def optMove : Byte := 0x01

/-- `POS_FILL` (R7). -/
def posFill : Nat := 9

/-- `lenbyte(payload)` (R80). -/
def lenByte (p : Params) (payload : List Byte) : Byte := BitVec.ofNat 8 (payload.length + p.lenAdj)

/-- The trailer (R81): additive first, XOR second, over the payload alone, with the protocol seeds. -/
def trailer (payload : List Byte) : List Byte := [ckAdd payload seedAdd, ckXor payload seedXor]

/-- `frame(payload)` (R79). -/
def frame (p : Params) (payload : List Byte) : List Byte :=
  preamble ++ [lenByte p payload] ++ payload ++ trailer payload

/-- `asn_payload(n)` (R83). -/
def asnPayload (n : Byte) : List Byte := asnHdr ++ [n, n ^^^ 0xFF]

/-- `pos_payload(opt, p)` (R84), the position low byte first (R85). -/
def posPayload (opt : Byte) (pos : Half) : List Byte :=
  posHdr ++ [respond, opt, posLo pos, posHi pos] ++ List.replicate posFill 0

/-- `ENCASN` (R100). -/
def Block.encasn (p : Params) (n : Byte) (k : Block) : Block := (k.writeFrame p (frame p (asnPayload n))).ok

/-- `ENCPOLL` (R101). -/
def Block.encpoll (p : Params) (k : Block) : Block := (k.writeFrame p (frame p (posPayload optPoll 0))).ok

/-- `ENCMOVE` (R102). -/
def Block.encmove (p : Params) (pos : Half) (k : Block) : Block :=
  (k.writeFrame p (frame p (posPayload optMove pos))).ok

/-- The command `ENCASN n` (R100). -/
def execEncasn (n : Byte) (s : State) : Host.Outcome State Fault Refusal := command (Block.encasn Params.hw n) s

/-- The command `ENCPOLL` (R101). -/
def execEncpoll (s : State) : Host.Outcome State Fault Refusal := command (Block.encpoll Params.hw) s

/-- The command `ENCMOVE pos` (R102). -/
def execEncmove (pos : Half) (s : State) : Host.Outcome State Fault Refusal :=
  command (Block.encmove Params.hw pos) s

end Sys2Proof.Machine
end

