-- ==== Sys2Proof/Machine/System.lean ====
section
/-! DEFINITION. The system command `NOP` (43_system.md R120) and the execution of an illegal word (R121). -/

namespace Sys2Proof.Machine

/-- `NOP` (R120): `ERR <- OK` only. -/
def Block.nop (k : Block) : Block := k.ok

/-- An illegal command word (R121): `raise IllegalCommand`, and nothing else. -/
def Block.illegal (k : Block) : Block := k.raise .illegalCommand

/-- The command `NOP` (R120). -/
def execNop (s : State) : Host.Outcome State Fault Refusal := command Block.nop s

/-- The execution of an illegal word (R121): "the next command word is taken normally". -/
def execIllegal (s : State) : Host.Outcome State Fault Refusal := command Block.illegal s

end Sys2Proof.Machine
end

