-- ==== Sys2Proof/Machine/Dispatch.lean ====
section
/-! DEFINITION. The meaning of every command (43_system.md R122, "run the rule of c"). -/

namespace Sys2Proof.Machine

def exec (i : Instr) (s : State) : Host.Outcome State Fault Refusal :=
  match i with
  | .nop => Sys2Proof.Machine.execNop s
  | .ckseed sa sx => Sys2Proof.Machine.execCkseed sa sx s
  | .ckbyte b => Sys2Proof.Machine.execCkbyte b s
  | .encasn n => Sys2Proof.Machine.execEncasn n s
  | .encpoll => Sys2Proof.Machine.execEncpoll s
  | .encmove p => Sys2Proof.Machine.execEncmove p s
  | .rxclr => Sys2Proof.Machine.execRxclr s
  | .rxpush b => Sys2Proof.Machine.execRxpush b s
  | .decack => Sys2Proof.Machine.execDecack s

end Sys2Proof.Machine
end

