-- ==== Sys2Proof/Machine/Regs.lean ====
section
/-! DEFINITION. The register map (10_state.md R35 to R48) and what a read of the window returns (20_memory.md R51,
R52). -/

namespace Sys2Proof.Machine

/-- The registers of R35. -/
inductive Reg where
  | cmd
  | status
  | ckadd
  | ckxor
  | txlen
  | rxcnt
  | ackpos
  | ackvolt
  | acktorq
  | ackflags
  | ackrawcnt
  | txbuf (i : Nat)
  | rxbuf (i : Nat)
  deriving DecidableEq, Repr

/-- Access types of the register map (10_state.md, section 2). -/
inductive RegAccess where
  | readOnly
  | writeOnly
  deriving DecidableEq, Repr

/-- The column "access" of R35. -/
def Reg.access : Reg → RegAccess
  | .cmd => .writeOnly
  | .status => .readOnly
  | .ckadd => .readOnly
  | .ckxor => .readOnly
  | .txlen => .readOnly
  | .rxcnt => .readOnly
  | .ackpos => .readOnly
  | .ackvolt => .readOnly
  | .acktorq => .readOnly
  | .ackflags => .readOnly
  | .ackrawcnt => .readOnly
  | .txbuf _ => .readOnly
  | .rxbuf _ => .readOnly

/-- The index of the register at `off` in a window of `cap` registers that begins at `base`, 4 bytes each (R47,
R48); `off` is a multiple of 4. -/
def windowIndex (base cap off : Nat) : Option Nat :=
  if base ≤ off ∧ off < base + 4 * cap then some ((off - base) / 4) else none

/-- The register at an aligned offset; none where the window is unmapped (R35, R52). -/
def regAt (p : Params) (off : Nat) : Option Reg :=
  if off = 0x000 then some .cmd
  else if off = 0x004 then some .status
  else if off = 0x008 then some .ckadd
  else if off = 0x00C then some .ckxor
  else if off = 0x010 then some .txlen
  else if off = 0x014 then some .rxcnt
  else if off = 0x018 then some .ackpos
  else if off = 0x01C then some .ackvolt
  else if off = 0x020 then some .acktorq
  else if off = 0x024 then some .ackflags
  else if off = 0x028 then some .ackrawcnt
  else match windowIndex 0x100 p.txCap off with
    | some i => some (.txbuf i)
    | none => (windowIndex 0x200 p.rxCap off).map .rxbuf

/-- The value of a register (R36 to R48), reserved bits as 0. -/
def Block.readReg (k : Block) : Reg → Word
  | .cmd => 0
  | .status => k.statusWord
  | .ckadd => zextByte k.accAdd
  | .ckxor => zextByte k.accXor
  | .txlen => zextByte k.txlen
  | .rxcnt => zextByte k.rxcnt
  | .ackpos => zextHalf k.ackPos
  | .ackvolt => zextByte k.ackVolt
  | .acktorq => zextByte k.ackTorq
  | .ackflags => k.ackFlagsWord
  | .ackrawcnt => zextByte k.ackRawcnt
  | .txbuf i => zextByte (byteAt k.txbuf i)
  | .rxbuf i => zextByte (byteAt k.rxbuf i)

/-- What an aligned 32-bit read at `off` returns: the register's value (R51), 0 where unmapped (R52). -/
def Block.readAt (p : Params) (k : Block) (off : Nat) : Word :=
  match regAt p off with
  | some r => k.readReg r
  | none => 0

end Sys2Proof.Machine
end

