-- ==== Sys2Proof/Machine/Port.lean ====
section
/-! DEFINITION. The host's port (43_system.md R122): which transactions the interface contract admits (20_memory.md
R50), and what each does. -/

namespace Sys2Proof.Machine

/-- The highest offset of a 32-bit register in the window (R50). -/
def lastOffset : Nat := 0x3FC

/-- Why an access is outside the interface contract (R50), if it is: "a 32-bit read ... or a 32-bit write ... with
`off` a multiple of 4 in 0x000..0x3FC"; refusing an aligned access beyond 0x3FC is the model's choice (log entry 13).
-/
def accessRefusal (width off : Nat) : Option Refusal :=
  if width ≠ 4 then some (.accessWidth width)
  else if off % 4 ≠ 0 then some (.misalignedOffset off)
  else if lastOffset < off then some (.outsideWindow off)
  else none

/-- An aligned 32-bit write of `v` to `CMD` (R122): exactly one command, or R121. -/
def writeCmd (v : Word) (s : State) : Host.Outcome State Fault Refusal :=
  match decode v with
  | .command i => exec i s
  | .illegal _ => execIllegal s

/-- `Write(off, v)` (R122): a write to a read-only register or to an unmapped offset is ignored (20_memory.md R52,
R53). -/
def writeAt (off : Nat) (v : Word) (s : State) : Host.Outcome State Fault Refusal :=
  match regAt Params.hw off with
  | some r =>
    match r.access with
    | .writeOnly => writeCmd v s
    | .readOnly => .next s
  | none => .next s

/-- `Read(off) -> u32` (R122): no state change, one value for the host. -/
def readAt (off : Nat) (s : State) : Host.Outcome State Fault Refusal :=
  .next (s.answer (s.block.readAt Params.hw off))

/-- An access the contract admits has its effect; any other is refused (R56). -/
def access (width off : Nat) (effect : Host.Outcome State Fault Refusal) : Host.Outcome State Fault Refusal :=
  match accessRefusal width off with
  | some why => .refused why
  | none => effect

/-- One transaction (R122). Before the first reset only reset is taken (70_reset_and_hazards.md R145). -/
def take (t : Transaction) (s : State) : Host.Outcome State Fault Refusal :=
  match t with
  | .reset => .next s.takeReset
  | .write width off v => if s.started then access width off (writeAt off v s) else .refused .beforeFirstReset
  | .read width off => if s.started then access width off (readAt off s) else .refused .beforeFirstReset

/-- No transaction waits: the state is held (60_exceptions.md R143; log entry 4). -/
def idle (s : State) : Host.Outcome State Fault Refusal := .next s

/-! ## The window in the host's address space -/

/-- The offset of a host address in the window, none outside it (20_memory.md R49): what an access outside the
window does is the platform's (R60), and no transaction of this block. -/
def windowOffset (p : Params) (addr : Nat) : Option Nat :=
  if p.regBase ≤ addr ∧ addr < p.regBase + 0x400 then some (addr - p.regBase) else none

/-- `MemWrite(addr, width, v)` (00_scope.md R11, 20_memory.md R50) as a transaction of the block. -/
def memWrite (p : Params) (addr width : Nat) (v : Word) : Option Transaction :=
  (windowOffset p addr).map fun off => .write width off v

/-- `MemRead(addr, width)` (R11, R50) as a transaction of the block. -/
def memRead (p : Params) (addr width : Nat) : Option Transaction :=
  (windowOffset p addr).map fun off => .read width off

/-- The transaction that makes the block run one command word. -/
def cmdWrite (w : Word) : Transaction := .write 4 0x000 w

end Sys2Proof.Machine
end

