-- ==== Sys2Proof/Machine/Step.lean ====
section
/-! DEFINITION. One step of the machine: the port takes the first transaction that waits (20_memory.md R62), whole,
before the next (R55). -/

namespace Sys2Proof.Machine

/-- The step (43_system.md R122). -/
def step (s : State) : Host.Outcome State Fault Refusal :=
  match s.pending with
  | [] => idle s
  | t :: _ => take t s.pop

/-- The state whose very next step runs the command word `w`: the block "is executed when the host writes it"
(10_state.md R15), so a write of the word to `CMD` stands first at the port of a block that has been reset (log
entries 1 and 3). -/
def State.withFetchWord (s : State) (nbits w : Nat) : State :=
  { s with started := true, pending := cmdWrite (tableWord nbits w) :: s.pending }

end Sys2Proof.Machine
end

