-- ==== Sys2Proof/Machine/Assembler.lean ====
section
/-! DEFINITION. The assembler of 30_encoding.md R77 and R78: the commands as statements with immediates of any size,
the pseudo-instructions with their expansions, and the text form of a line. No part of the machine reads it: it says
which words a source line spells. -/

namespace Sys2Proof.Machine

/-- Why a line spells no words. -/
inductive AsmError where
  /-- "An immediate outside its range ... is an assembly error, not an encoding" (R77). -/
  | outOfRange (n : Nat)
  /-- A mnemonic that R77 and R78 do not list. -/
  | unknownMnemonic
  /-- Operands that the mnemonic's syntax does not have. -/
  | badOperands
  deriving DecidableEq, Repr

/-- A line of R77's table or of R78's list, its immediates as written. -/
inductive AsmLine where
  | nop
  | ckseed (sa sx : Nat)
  | ckbyte (b : Nat)
  | encasn (n : Nat)
  | encpoll
  | encmove (p : Nat)
  | rxclr
  | rxpush (b : Nat)
  | decack
  | ckinit
  | cksum (bs : List Nat)
  | encposPoll
  | encpos (p : Nat)
  | rxload (bs : List Nat)
  deriving DecidableEq, Repr

/-- A byte operand: "0..255" (R77). -/
def asmByte (n : Nat) : Except AsmError Byte :=
  if n ≤ 255 then .ok (BitVec.ofNat 8 n) else .error (.outOfRange n)

/-- A position: "0..65535" (R77). -/
def asmHalf (n : Nat) : Except AsmError Half :=
  if n ≤ 65535 then .ok (BitVec.ofNat 16 n) else .error (.outOfRange n)

/-- A list of byte operands, each in range. -/
def asmBytes : List Nat → Except AsmError (List Byte)
  | [] => .ok []
  | n :: ns => do
    let b ← asmByte n
    let bs ← asmBytes ns
    return b :: bs

/-- `ckinit` expands to `ckseed 0xAA, 0x55` (R78). -/
def ckinitCommand : Instr := .ckseed 0xAA 0x55

/-- `cksum b0, ..., bk`: `ckinit`, then one `ckbyte` per byte, in order (R78). -/
def cksumCommands (bs : List Byte) : List Instr := ckinitCommand :: bs.map .ckbyte

/-- `rxload b0, ..., bk`: `rxclr`, then one `rxpush` per byte, in order (R78). -/
def rxloadCommands (bs : List Byte) : List Instr := .rxclr :: bs.map .rxpush

/-- The commands a line stands for (R77, R78). -/
def AsmLine.expand : AsmLine → Except AsmError (List Instr)
  | .nop => .ok [.nop]
  | .ckseed sa sx => do return [.ckseed (← asmByte sa) (← asmByte sx)]
  | .ckbyte b => do return [.ckbyte (← asmByte b)]
  | .encasn n => do return [.encasn (← asmByte n)]
  | .encpoll => .ok [.encpoll]
  | .encmove p => do return [.encmove (← asmHalf p)]
  | .rxclr => .ok [.rxclr]
  | .rxpush b => do return [.rxpush (← asmByte b)]
  | .decack => .ok [.decack]
  | .ckinit => .ok [ckinitCommand]
  | .cksum bs => do return cksumCommands (← asmBytes bs)
  | .encposPoll => .ok [.encpoll]
  | .encpos p => do return [.encmove (← asmHalf p)]
  | .rxload bs => do return rxloadCommands (← asmBytes bs)

/-! ## The text of a line (R77; log entry 10 for what R77 leaves open) -/

/-- A space between tokens. -/
def isGap (c : Char) : Bool := c == ' ' || c == '\t' || c == '\r'

/-- The text without the spaces at its two ends. -/
def trim (l : List Char) : List Char := ((l.dropWhile isGap).reverse.dropWhile isGap).reverse

/-- "`;` begins a comment" (R77). -/
def dropComment (l : List Char) : List Char := l.takeWhile (· != ';')

/-- The parts of a text between the separators. -/
def splitAtChar (sep : Char) : List Char → List (List Char)
  | [] => [[]]
  | c :: cs =>
    if c = sep then [] :: splitAtChar sep cs
    else match splitAtChar sep cs with
      | [] => [[c]]
      | part :: parts => (c :: part) :: parts

/-- The value of a digit of base 16; a digit of base 10 has a value below 10. -/
def digitValue (c : Char) : Option Nat :=
  if '0' ≤ c ∧ c ≤ '9' then some (c.toNat - '0'.toNat)
  else if 'a' ≤ c ∧ c ≤ 'f' then some (c.toNat - 'a'.toNat + 10)
  else if 'A' ≤ c ∧ c ≤ 'F' then some (c.toNat - 'A'.toNat + 10)
  else none

/-- The number that digits of a base spell after the ones already read. -/
def digitsFrom (base acc : Nat) : List Char → Option Nat
  | [] => some acc
  | c :: cs =>
    match digitValue c with
    | some d => if d < base then digitsFrom base (base * acc + d) cs else none
    | none => none

/-- "an immediate is decimal or `0x` hexadecimal" (R77). -/
def immediate : List Char → Option Nat
  | [] => none
  | '0' :: 'x' :: d :: ds => digitsFrom 16 0 (d :: ds)
  | c :: cs => digitsFrom 10 0 (c :: cs)

/-- All operands as immediates. -/
def immediates : List (List Char) → Option (List Nat)
  | [] => some []
  | t :: ts =>
    match immediate t, immediates ts with
    | some n, some ns => some (n :: ns)
    | _, _ => none

/-- A line of a mnemonic and its immediates. -/
def statementOf (m : List Char) (ns : List Nat) : Except AsmError AsmLine :=
  if m = "nop".toList then (match ns with | [] => .ok .nop | _ => .error .badOperands)
  else if m = "ckseed".toList then (match ns with | [sa, sx] => .ok (.ckseed sa sx) | _ => .error .badOperands)
  else if m = "ckbyte".toList then (match ns with | [b] => .ok (.ckbyte b) | _ => .error .badOperands)
  else if m = "encasn".toList then (match ns with | [n] => .ok (.encasn n) | _ => .error .badOperands)
  else if m = "encpoll".toList then (match ns with | [] => .ok .encpoll | _ => .error .badOperands)
  else if m = "encmove".toList then (match ns with | [p] => .ok (.encmove p) | _ => .error .badOperands)
  else if m = "rxclr".toList then (match ns with | [] => .ok .rxclr | _ => .error .badOperands)
  else if m = "rxpush".toList then (match ns with | [b] => .ok (.rxpush b) | _ => .error .badOperands)
  else if m = "decack".toList then (match ns with | [] => .ok .decack | _ => .error .badOperands)
  else if m = "ckinit".toList then (match ns with | [] => .ok .ckinit | _ => .error .badOperands)
  else if m = "cksum".toList then .ok (.cksum ns)
  else if m = "encpos".toList then (match ns with | [p] => .ok (.encpos p) | _ => .error .badOperands)
  else if m = "rxload".toList then (match ns with | [] => .error .badOperands | _ => .ok (.rxload ns))
  else .error .unknownMnemonic

/-- The operand texts of a line, "separated by commas" (R77). -/
def operandTexts (rest : List Char) : List (List Char) :=
  if trim rest = [] then [] else (splitAtChar ',' rest).map trim

/-- One line: a statement, or none for a line that is blank but for a comment. -/
def parseLine (l : List Char) : Except AsmError (Option AsmLine) :=
  let t := trim (dropComment l)
  let m := t.takeWhile (fun c => !isGap c)
  let ops := operandTexts (t.dropWhile (fun c => !isGap c))
  if t = [] then .ok none
  else if m = "encpos".toList ∧ ops = ["poll".toList] then .ok (some .encposPoll)
  else match immediates ops with
    | some ns => (statementOf m ns).map some
    | none => .error .badOperands

/-- The words of a line. -/
def assembleLine (l : List Char) : Except AsmError (List Word) := do
  match ← parseLine l with
  | none => return []
  | some a => return (← a.expand).map encode

/-- The words of lines, in order: "One command per line" (R77). -/
def assembleLines : List (List Char) → Except AsmError (List Word)
  | [] => .ok []
  | l :: ls => do
    let w ← assembleLine l
    let ws ← assembleLines ls
    return w ++ ws

/-- The words a source text spells. -/
def assemble (text : List Char) : Except AsmError (List Word) := assembleLines (splitAtChar '\n' text)

end Sys2Proof.Machine
end

