-- ==== Sys2Proof/Machine/Parametric.lean ====
section
/-! DEFINITION. The commands with the parameters as an argument (00_scope.md R6, "A model takes each as an
argument"): what a command does to the block of any implementation, `P_ACK_VERIFY = true` and `P_LEN_ADJ = 2`
among them. The machine of this hardware is `exec` (Machine/Dispatch.lean), which has `Params.hw`. -/

namespace Sys2Proof.Machine

/-- The rule of a command on the block of an implementation with the parameters `p`. -/
def runCommand (p : Params) (i : Instr) (k : Block) : Block :=
  match i with
  | .nop => k.nop
  | .ckseed sa sx => k.ckseed sa sx
  | .ckbyte b => k.ckbyte b
  | .encasn n => k.encasn p n
  | .encpoll => k.encpoll p
  | .encmove pos => k.encmove p pos
  | .rxclr => k.rxclr p
  | .rxpush b => k.rxpush p b
  | .decack => k.decack p

/-- The rules of a sequence of commands, in order. -/
def runCommands (p : Params) (is : List Instr) (k : Block) : Block := is.foldl (fun k i => runCommand p i k) k

end Sys2Proof.Machine
end

