-- ==== Sys2Proof/Safety.lean ====
section
/-! DEFINITION. The terms claims are stated in: a run, the transactions the contract admits, the invariants of
10_state.md R33, interleavings of host agents (20_memory.md R62) and the exchanges of a host that keeps its duties
(60_exceptions.md R139). -/

namespace Sys2Proof

open Machine

/-- `n` steps of the machine. -/
def run (n : Nat) (s : State) : Host.Outcome State Fault Refusal := Host.Core.run core n s

/-- A transaction the interface contract admits: reset, or an aligned 32-bit access in 0x000..0x3FC (20_memory.md
R50, 43_system.md R122). -/
def Machine.Transaction.Accepted : Transaction → Prop
  | .reset => True
  | .write width off _ => width = 4 ∧ off % 4 = 0 ∧ off ≤ 0x3FC
  | .read width off => width = 4 ∧ off % 4 = 0 ∧ off ≤ 0x3FC

/-- The transaction is an admitted read. -/
def Machine.Transaction.IsRead : Transaction → Prop
  | .read width off => width = 4 ∧ off % 4 = 0 ∧ off ≤ 0x3FC
  | .write _ _ _ => False
  | .reset => False

/-- The invariants of R33, with the sizes of R18 and R20 and the legal values of `ERR` (R37). -/
structure Machine.Block.Inv (p : Params) (k : Block) : Prop where
  txSize : k.txbuf.length = p.txCap
  rxSize : k.rxbuf.length = p.rxCap
  rxCount : k.rxcnt.toNat ≤ p.rxCap
  rxTail : ∀ i, i < p.rxCap → k.rxcnt.toNat ≤ i → byteAt k.rxbuf i = 0
  txLength : k.txlen = 0 ∨ k.txlen = 11 ∨ k.txlen = 20
  txTail : ∀ i, i < p.txCap → k.txlen.toNat ≤ i → byteAt k.txbuf i = 0
  ackCleared : k.ackValid = false →
    k.ackPos = 0 ∧ k.ackVolt = 0 ∧ k.ackTorq = 0 ∧ k.ackEngaged = false ∧ k.ackSlipping = false ∧
      k.ackValarm = false ∧ k.ackRawflags = 0
  errLegal : k.err.toNat ≤ 4

/-- The three flags are the ones of the raw flag byte beside them (10_state.md R28, 42_ack_decoder.md R110 to
R112). -/
def Machine.Block.FlagsAgree (p : Params) (k : Block) : Prop :=
  k.ackEngaged = (k.ackRawflags &&& 0x01 != 0) ∧
  k.ackSlipping = (k.ackRawflags &&& 0x02 != 0) ∧
  k.ackValarm = (k.ackRawflags &&& p.alarmMask != 0)

/-- `l` is an interleaving of `a` and `b`: each list's own order is kept, and nothing else (R62). -/
inductive Interleaving {α : Type} : List α → List α → List α → Prop where
  | done : Interleaving [] [] []
  | left {a b l : List α} (x : α) : Interleaving a b l → Interleaving (x :: a) b (x :: l)
  | right {a b l : List α} (y : α) : Interleaving a b l → Interleaving a (y :: b) (y :: l)

/-- The writes to `CMD` that run commands, in order. -/
def commandWrites (is : List Instr) : List Transaction := is.map fun i => cmdWrite (encode i)

/-- A host that receives an acknowledgement as R139 asks: `RXCLR`, one `RXPUSH` per byte in arrival order, `DECACK`
(the duty of 70_reset_and_hazards.md R149). -/
def receiveExchange (bs : List Byte) : List Instr := rxloadCommands bs ++ [.decack]

/-- The reads with which a host transmits a frame of `n` bytes as R139 asks: `TXLEN`, then `TXBUF[0..n-1]` in index
order. -/
def frameReads (n : Nat) : List Transaction := .read 4 0x010 :: (List.range n).map fun i => .read 4 (0x100 + 4 * i)

/-- The reads of `STATUS`, `ACKPOS`, `ACKVOLT`, `ACKTORQ`, `ACKFLAGS`, `ACKRAWCNT` with which a host takes a
decoded status (R139, the row "decode"). -/
def statusReads : List Transaction :=
  [.read 4 0x004, .read 4 0x018, .read 4 0x01C, .read 4 0x020, .read 4 0x024, .read 4 0x028]

end Sys2Proof
end

