-- ==== Sys2Proof/Certificates/Slice0/Obligations.lean ====
section
/-! DEFINITION. The statements for the provers. Each docstring names the rule of the spec that the statement
formalises, or the log entry a derived clause rests on. -/

open Sys2Proof Sys2Proof.Machine

/-! ## Encoding -/

/-- Every command comes back from its word, with every operand at every value (R73 against R77). -/
def Obligations.DecodeOfEncodeIsTheCommand : Prop :=
  ∀ i : Instr, decode (encode i) = .command i

/-- Every word that is a command is the only word of that command (R73; D5, "every mapped command has exactly one
word"). -/
def Obligations.EncodeOfDecodeIsTheWord : Prop :=
  ∀ (w : Word) (i : Instr), decode w = .command i → encode i = w

/-- The decoder takes a word as a command of some mnemonic exactly when it fits that mnemonic's row of
spec/opcode_table.json. -/
def Obligations.DecodeFollowsTheOpcodeTable : Prop :=
  ∀ (w : Word) (r : OpRow), r ∈ opcodeTable →
    (r.fits w = true ↔ ∃ i, decode w = .command i ∧ i.mnemonic = r.mnemonic)

/-- "A word decodes to at most one command; the rows of opcode_table.json are pairwise disjoint" (R73). -/
def Obligations.OpcodeTableRowsAreDisjoint : Prop :=
  ∀ (w : Word) (r r' : OpRow), r ∈ opcodeTable → r' ∈ opcodeTable → r.fits w = true → r'.fits w = true → r = r'

/-- The three kinds of illegal word of R74, the opcodes spelled out. -/
def Sys2Proof.IllegalByR74 (w : Word) : Prop :=
  let op := (fieldOp w).toNat
  fieldRsv w ≠ 0 ∨
  (0x03 ≤ op ∧ op ≤ 0x0F) ∨ (0x13 ≤ op ∧ op ≤ 0x1F) ∨ 0x23 ≤ op ∨
  ((op = 0x00 ∨ op = 0x11 ∨ op = 0x20 ∨ op = 0x22) ∧ (fieldA w ≠ 0 ∨ fieldB w ≠ 0)) ∨
  ((op = 0x02 ∨ op = 0x10 ∨ op = 0x21) ∧ fieldB w ≠ 0)

/-- A word is illegal exactly when R74 lists it, and then it is none of the well-formed words. -/
def Obligations.IllegalWordsAreThoseOfR74 : Prop :=
  ∀ w : Word, ((∃ why, decode w = .illegal why) ↔ IllegalByR74 w) ∧ (wordWellFormed w = true ↔ ¬IllegalByR74 w)

/-- Words written out from R68, R72 and R77 (95_test_vectors.md L2.1) decode to their commands. -/
def Obligations.WrittenOutWordsDecode : Prop :=
  decode 0x00000000 = .command .nop ∧
  decode 0x0055AA01 = .command (.ckseed 0xAA 0x55) ∧
  decode 0x0000FE02 = .command (.ckbyte 0xFE) ∧
  decode 0x00000110 = .command (.encasn 1) ∧
  decode 0x00000011 = .command .encpoll ∧
  decode 0x0004B012 = .command (.encmove 1200) ∧
  decode 0x00000020 = .command .rxclr ∧
  decode 0x0000D521 = .command (.rxpush 0xD5) ∧
  decode 0x00000022 = .command .decack

/-! ## The step -/

/-- A step on a command word at the port runs the command it decodes to, after the port has taken the word and
nothing else has changed (R122). -/
def Obligations.StepRunsTheDecodedCommand : Prop :=
  ∀ (s : State) (w : Word) (i : Instr) (rest : List Transaction),
    s.started = true → s.pending = .write 4 0x000 w :: rest → decode w = .command i →
    step s = exec i { s with pending := rest }

/-- Executing an illegal word of R74 "raises `IllegalCommand` and changes nothing else"; every other word is a
command, and executing it is running that command. -/
def Obligations.IllegalWordRaisesAndChangesNothingElse : Prop :=
  ∀ (s : State) (w : Word) (rest : List Transaction),
    s.started = true → s.pending = .write 4 0x000 w :: rest →
    (IllegalByR74 w → step s = .next { s with pending := rest, block := { s.block with err := 3 } }) ∧
    (¬IllegalByR74 w → ∃ i, step s = exec i { s with pending := rest })

/-- A read changes no state element: it gives the host one value (the model's `replies`, log entry 2), and the same
value however often it is repeated (R54). -/
def Obligations.ReadsHaveNoSideEffects : Prop :=
  ∀ (s : State) (off n : Nat) (rest : List Transaction),
    s.started = true → s.pending = List.replicate n (.read 4 off) ++ rest → off % 4 = 0 → off ≤ 0x3FC →
    run n s = .next
      { s with pending := rest, replies := s.replies ++ List.replicate n (s.block.readAt Params.hw off) }

/-- A read at a mapped offset returns the register's value with its reserved bits 0 (R51, R36 to R48): each value
given here as a number. -/
def Obligations.MappedReadsReturnTheRegisters : Prop :=
  ∀ k : Block,
    let r := fun off => (k.readAt Params.hw off).toNat
    r 0x000 = 0 ∧
    r 0x004 = k.err.toNat + 16 * k.ackValid.toNat ∧
    r 0x008 = k.accAdd.toNat ∧
    r 0x00C = k.accXor.toNat ∧
    r 0x010 = k.txlen.toNat ∧
    r 0x014 = k.rxcnt.toNat ∧
    r 0x018 = k.ackPos.toNat ∧
    r 0x01C = k.ackVolt.toNat ∧
    r 0x020 = k.ackTorq.toNat ∧
    r 0x024 = k.ackEngaged.toNat + 2 * k.ackSlipping.toNat + 4 * k.ackValarm.toNat + 256 * k.ackRawflags.toNat ∧
    r 0x028 = k.ackRawcnt.toNat ∧
    (∀ i, i < 32 → r (0x100 + 4 * i) = (byteAt k.txbuf i).toNat) ∧
    (∀ i, i < 16 → r (0x200 + 4 * i) = (byteAt k.rxbuf i).toNat)

/-- The offsets R52 leaves unmapped, with this hardware's capacities. -/
def Sys2Proof.UnmappedByR52 (off : Nat) : Prop :=
  (0x02C ≤ off ∧ off ≤ 0x0FC) ∨ (0x180 ≤ off ∧ off ≤ 0x1FC) ∨ (0x240 ≤ off ∧ off ≤ 0x3FC)

/-- An aligned read at an unmapped offset gives 0 and changes nothing; an aligned write there is ignored (R52). -/
def Obligations.UnmappedOffsetsReadZeroAndIgnoreWrites : Prop :=
  ∀ (s : State) (off : Nat) (v : Word) (rest : List Transaction),
    s.started = true → off % 4 = 0 → UnmappedByR52 off →
    (s.pending = .read 4 off :: rest → step s = .next { s with pending := rest, replies := s.replies ++ [0] }) ∧
    (s.pending = .write 4 off v :: rest → step s = .next { s with pending := rest })

/-- An aligned 32-bit write to `CMD` executes one command; to any other mapped register it is ignored (R53): `ERR`
is not written. -/
def Obligations.OnlyCmdTakesWrites : Prop :=
  ∀ (s : State) (off : Nat) (v : Word) (rest : List Transaction),
    s.started = true → s.pending = .write 4 off v :: rest → off % 4 = 0 → off ≤ 0x3FC →
    (off = 0x000 → step s = writeCmd v { s with pending := rest }) ∧
    (off ≠ 0x000 → step s = .next { s with pending := rest })

/-- A run that reaches a transaction outside the contract is refused there, whatever admitted transactions came
before it and whatever would come after: "Every other transaction is refused" (R122). That the refusal mark is an
outcome which ends the run is the model's reading (log entry 7, DEDUCED); that an aligned access beyond 0x3FC is
refused is the model's choice (log entry 13, DESIGN CHOICE). -/
def Obligations.RunWithAnAccessOutsideTheContractIsRefused : Prop :=
  ∀ (s : State) (pre rest : List Transaction) (t : Transaction) (n : Nat),
    s.started = true → s.pending = pre ++ t :: rest → (∀ u ∈ pre, u.Accepted) → ¬t.Accepted → pre.length < n →
    ∃ why, run n s = .refused why

/-- Before the first reset every transaction but reset is refused, whatever the state elements hold (R145; the
model's `started`, log entry 3). -/
def Obligations.NothingButResetBeforeTheFirstReset : Prop :=
  ∀ (s : State) (t : Transaction) (rest : List Transaction),
    s.started = false → s.pending = t :: rest → t ≠ .reset → step s = .refused .beforeFirstReset

/-- Reset, from any state, before the first one too, sets every state element to its value of R144 all at once, and
the registers then read as R35's reset column gives. -/
def Obligations.ResetSetsEveryElement : Prop :=
  ∀ (s : State) (rest : List Transaction), s.pending = .reset :: rest →
    ∃ t, step s = .next t ∧ t.started = true ∧ t.pending = rest ∧ t.replies = s.replies ∧
      t.block = { accAdd := 0xAA, accXor := 0x55, txbuf := List.replicate 32 0, txlen := 0,
                  rxbuf := List.replicate 16 0, rxcnt := 0, ackPos := 0, ackVolt := 0, ackTorq := 0,
                  ackEngaged := false, ackSlipping := false, ackValarm := false, ackRawflags := 0,
                  ackRawcnt := 0, ackValid := false, err := 0 } ∧
      (∀ off, off % 4 = 0 → off ≤ 0x3FC →
        t.block.readAt Params.hw off = if off = 0x008 then 0xAA else if off = 0x00C then 0x55 else 0)

/-- No admitted transaction stops a block that has been reset: every run over admitted transactions takes all of
them (R122, "total"; R61, R137). -/
def Obligations.AdmittedTransactionsAreAllTaken : Prop :=
  ∀ s : State, s.started = true → (∀ t ∈ s.pending, t.Accepted) →
    ∃ t, run s.pending.length s = .next t ∧ t.pending = [] ∧ t.started = true

/-- A host address in the window is the offset from `P_REG_BASE`, wherever the platform puts the window, and an
address outside it is no transaction of the block (R49, R50). -/
def Obligations.WindowAddressesAreOffsetsFromTheBase : Prop :=
  ∀ (p : Params) (off width : Nat) (v : Word),
    (off < 0x400 → memWrite p (p.regBase + off) width v = some (.write width off v) ∧
      memRead p (p.regBase + off) width = some (.read width off)) ∧
    (0x400 ≤ off → memWrite p (p.regBase + off) width v = none ∧ memRead p (p.regBase + off) width = none) ∧
    (off < p.regBase → memWrite p off width v = none ∧ memRead p off width = none)

/-! ## Commands: results, frames and completion -/

/-- `NOP` writes `ERR <- OK` only (R120). -/
def Obligations.NopWritesErrOnly : Prop :=
  ∀ s : State, exec .nop s = .next { s with block := { s.block with err := 0 } }

/-- `CKSEED` loads both accumulators, writes `ERR <- OK`, and nothing else (R96). -/
def Obligations.CkseedLoadsBothAccumulators : Prop :=
  ∀ (sa sx : Byte) (s : State),
    exec (.ckseed sa sx) s = .next { s with block := { s.block with accAdd := sa, accXor := sx, err := 0 } }

/-- `CKBYTE` adds mod 256 into one accumulator and exclusive-ors into the other, writes `ERR <- OK`, and nothing
else (R97). -/
def Obligations.CkbyteFoldsTheByte : Prop :=
  ∀ (b : Byte) (s : State), ∃ t, exec (.ckbyte b) s = .next t ∧
    t.block.accAdd.toNat = (s.block.accAdd.toNat + b.toNat) % 256 ∧
    (∀ j, t.block.accXor.getLsbD j = (s.block.accXor.getLsbD j ^^ b.getLsbD j)) ∧
    t = { s with block := { s.block with accAdd := t.block.accAdd, accXor := t.block.accXor, err := 0 } }

/-- `ENCASN n` builds R86's frame for the operand n, the trailer 0xA8, 0x55 for every n, and zeros after it; it
leaves the trailer in the accumulators and touches nothing of the receive side (R100, R99). -/
def Obligations.EncasnBuildsTheAssignFrame : Prop :=
  ∀ (n : Byte) (s : State),
    exec (.encasn n) s = .next { s with block := { s.block with
      txbuf := [0xD5, 0x82, 0x06, 0x00, 0x00, 0xAA, 0x55, n, n ^^^ 0xFF, 0xA8, 0x55] ++ List.replicate 21 0
      txlen := 11
      accAdd := 0xA8
      accXor := 0x55
      err := 0 } }

/-- `ENCPOLL` builds the constant frame of R101, leaves its trailer in the accumulators, and touches nothing of the
receive side. -/
def Obligations.EncpollBuildsThePollFrame : Prop :=
  ∀ s : State,
    exec .encpoll s = .next { s with block := { s.block with
      txbuf := [0xD5, 0x82, 0x0F, 0x01, 0x00, 0x01, 0x00, 0x00, 0x00] ++ List.replicate 9 0 ++ [0xAC, 0x55]
        ++ List.replicate 12 0
      txlen := 20
      accAdd := 0xAC
      accXor := 0x55
      err := 0 } }

/-- `ENCMOVE p` builds R87's frame for `MoveTo(p)`: the position little-endian, and the trailer that R102 gives in
closed form, which it leaves in the accumulators; it touches nothing of the receive side. -/
def Obligations.EncmoveBuildsTheMoveFrame : Prop :=
  ∀ (p : Half) (s : State),
    let lo : Byte := BitVec.ofNat 8 (p.toNat % 256)
    let hi : Byte := BitVec.ofNat 8 (p.toNat / 256)
    let add : Byte := BitVec.ofNat 8 (0xAD + lo.toNat + hi.toNat)
    let xor : Byte := 0x54 ^^^ lo ^^^ hi
    exec (.encmove p) s = .next { s with block := { s.block with
      txbuf := [0xD5, 0x82, 0x0F, 0x01, 0x00, 0x01, 0x01, lo, hi] ++ List.replicate 9 0 ++ [add, xor]
        ++ List.replicate 12 0
      txlen := 20
      accAdd := add
      accXor := xor
      err := 0 } }

/-- `RXCLR` zeroes the receive buffer and its count; the decoded status stays (R114). -/
def Obligations.RxclrEmptiesTheReceiveBuffer : Prop :=
  ∀ s : State,
    exec .rxclr s = .next { s with block := { s.block with rxbuf := List.replicate 16 0, rxcnt := 0, err := 0 } }

/-- `RXPUSH` below the capacity stores its byte at `RXBUF[RXCNT]`, and at no other index, then increments `RXCNT`
(R115); into a full buffer it stores nothing and raises `RxOverflow` (R130). -/
def Obligations.RxpushStoresOrOverflows : Prop :=
  ∀ (b : Byte) (s : State), s.block.rxbuf.length = 16 →
    (s.block.rxcnt.toNat < 16 → ∃ t, exec (.rxpush b) s = .next t ∧
      t.block.rxbuf.length = 16 ∧
      (∀ i, byteAt t.block.rxbuf i = if i = s.block.rxcnt.toNat then b else byteAt s.block.rxbuf i) ∧
      t.block.rxcnt.toNat = s.block.rxcnt.toNat + 1 ∧
      t = { s with block := { s.block with rxbuf := t.block.rxbuf, rxcnt := t.block.rxcnt, err := 0 } }) ∧
    (s.block.rxcnt.toNat = 16 → exec (.rxpush b) s = .next { s with block := { s.block with err := 4 } })

/-- `DECACK` with fewer than 10 received bytes raises `TruncatedFrame`: `ACK_RAWCNT` records the count, the other
ack result registers are cleared and `ACK_VALID` is false; nothing else changes (R127, R107). -/
def Obligations.DecackRejectsATruncatedFrame : Prop :=
  ∀ s : State, s.block.rxcnt.toNat < 10 →
    exec .decack s = .next { s with block := { s.block with
      ackPos := 0, ackVolt := 0, ackTorq := 0, ackEngaged := false, ackSlipping := false, ackValarm := false,
      ackRawflags := 0, ackRawcnt := s.block.rxcnt, ackValid := false, err := 1 } }

/-- `DECACK` with at least 10 received bytes decodes the fields at offsets 5 to 9 as R108 to R112 give them, the
alarm true exactly when one of the two other flags is; it changes only the ack result registers, `ACK_VALID` and
`ERR`. -/
def Obligations.DecackDecodesTheFields : Prop :=
  ∀ s : State, 10 ≤ s.block.rxcnt.toNat → ∃ t, exec .decack s = .next t ∧
    let b := byteAt s.block.rxbuf
    t.block.ackPos.toNat = (b 7).toNat * 256 + (b 6).toNat ∧
    t = { s with block := { s.block with
      ackPos := t.block.ackPos
      ackVolt := b 8
      ackTorq := b 9
      ackEngaged := (b 5).getLsbD 0
      ackSlipping := (b 5).getLsbD 1
      ackValarm := (b 5).getLsbD 0 || (b 5).getLsbD 1
      ackRawflags := b 5
      ackRawcnt := s.block.rxcnt
      ackValid := true
      err := 0 } }

/-! ## Whole-machine rules about commands -/

/-- The result code of every command (R126, R132): `TRUNCATED_FRAME` from `DECACK` alone, with fewer than 10 bytes;
`RX_OVERFLOW` from `RXPUSH` alone, into a full buffer; else `OK`. -/
def Obligations.EveryCommandLeavesItsResultCode : Prop :=
  ∀ (i : Instr) (s : State), ∃ t, exec i s = .next t ∧
    (t.block.err = 1 ↔ i = .decack ∧ s.block.rxcnt.toNat < 10) ∧
    (t.block.err = 4 ↔ (∃ b, i = .rxpush b) ∧ s.block.rxcnt.toNat = 16) ∧
    (t.block.err = 0 ∨ t.block.err = 1 ∨ t.block.err = 4)

/-- `ERR` is not sticky: a command runs the same whatever it holds, and writes its own code; a read or an ignored
write keeps it (R134). -/
def Obligations.ErrIsNotSticky : Prop :=
  (∀ (i : Instr) (s : State) (e : ErrBits),
    exec i { s with block := { s.block with err := e } } = exec i s) ∧
  (∀ (s : State) (t : Transaction) (rest : List Transaction),
    s.started = true → s.pending = t :: rest → t.Accepted → t ≠ .reset → (∀ v, t ≠ .write 4 0x000 v) →
    ∃ u, step s = .next u ∧ u.block.err = s.block.err)

/-- Each group of state elements is written only by the commands its rule names (R16 to R30); no command touches the
port. -/
def Obligations.EachElementHasItsWriters : Prop :=
  ∀ (i : Instr) (s t : State), exec i s = .next t →
    let m := i.mnemonic
    (m ∉ ["CKSEED", "CKBYTE", "ENCASN", "ENCPOLL", "ENCMOVE"] →
      t.block.accAdd = s.block.accAdd ∧ t.block.accXor = s.block.accXor) ∧
    (m ∉ ["ENCASN", "ENCPOLL", "ENCMOVE"] → t.block.txbuf = s.block.txbuf ∧ t.block.txlen = s.block.txlen) ∧
    (m ∉ ["RXCLR", "RXPUSH"] → t.block.rxbuf = s.block.rxbuf ∧ t.block.rxcnt = s.block.rxcnt) ∧
    (m ≠ "DECACK" →
      t.block.ackPos = s.block.ackPos ∧ t.block.ackVolt = s.block.ackVolt ∧ t.block.ackTorq = s.block.ackTorq ∧
      t.block.ackEngaged = s.block.ackEngaged ∧ t.block.ackSlipping = s.block.ackSlipping ∧
      t.block.ackValarm = s.block.ackValarm ∧ t.block.ackRawflags = s.block.ackRawflags ∧
      t.block.ackRawcnt = s.block.ackRawcnt ∧ t.block.ackValid = s.block.ackValid) ∧
    t.started = s.started ∧ t.pending = s.pending ∧ t.replies = s.replies

/-- "No encode command's result depends on any state written before it"; "No `DECACK` result depends on state other
than `RXBUF` and `RXCNT`" (R34, R105). -/
def Obligations.ResultsDependOnTheirInputsAlone : Prop :=
  ∀ (i : Instr) (s s' : State), ∃ t t', exec i s = .next t ∧ exec i s' = .next t' ∧
    (i.mnemonic ∈ ["ENCASN", "ENCPOLL", "ENCMOVE"] →
      t.block.txbuf = t'.block.txbuf ∧ t.block.txlen = t'.block.txlen ∧
      t.block.accAdd = t'.block.accAdd ∧ t.block.accXor = t'.block.accXor) ∧
    (i = .decack → s.block.rxbuf = s'.block.rxbuf → s.block.rxcnt = s'.block.rxcnt →
      t.block.ackPos = t'.block.ackPos ∧ t.block.ackVolt = t'.block.ackVolt ∧ t.block.ackTorq = t'.block.ackTorq ∧
      t.block.ackEngaged = t'.block.ackEngaged ∧ t.block.ackSlipping = t'.block.ackSlipping ∧
      t.block.ackValarm = t'.block.ackValarm ∧ t.block.ackRawflags = t'.block.ackRawflags ∧
      t.block.ackRawcnt = t'.block.ackRawcnt ∧ t.block.ackValid = t'.block.ackValid ∧ t.block.err = t'.block.err)

/-- `ENCPOLL` and `ENCMOVE p` build frames whose preamble, length byte and payload differ only at payload offsets 3,
4 and 5, which are frame offsets 6, 7 and 8 (R104). -/
def Obligations.PollAndMoveDifferOnlyInOptionsAndPosition : Prop :=
  ∀ (p : Half) (s : State), ∃ t u, exec .encpoll s = .next t ∧ exec (.encmove p) s = .next u ∧
    ∀ i, i < 18 → i ≠ 6 → i ≠ 7 → i ≠ 8 → byteAt t.block.txbuf i = byteAt u.block.txbuf i

/-! ## Checksums -/

/-- The closed forms of the two checksums and their consequences (R94). -/
def Obligations.ChecksumClosedForms : Prop :=
  ∀ (bs cs : List Byte) (s x : Byte),
    (ckAdd bs s).toNat = (s.toNat + (bs.map BitVec.toNat).sum) % 256 ∧
    ckXor bs s = bs.foldr (fun b acc => b ^^^ acc) s ∧
    ckAdd [] s = s ∧ ckXor [] s = s ∧
    (bs.Perm cs → ckAdd bs s = ckAdd cs s ∧ ckXor bs s = ckXor cs s) ∧
    ckXor (bs ++ [x, x]) s = ckXor bs s ∧
    (x ≠ 0 → ckAdd (bs ++ [x, BitVec.ofNat 8 (0x100 - x.toNat)]) s = ckAdd bs s) ∧
    ckAdd (bs ++ cs) s = ckAdd cs (ckAdd bs s) ∧
    ckXor (bs ++ cs) s = ckXor cs (ckXor bs s)

/-- The streaming commands compute the checksum functions (R98): `CKSEED` and then one `CKBYTE` per byte, for a
sequence of any length, and nothing but the accumulators and `ERR` changes. -/
def Obligations.StreamingComputesTheChecksums : Prop :=
  ∀ (sa sx : Byte) (bs : List Byte) (rest : List Transaction) (s : State),
    s.started = true → s.pending = commandWrites (.ckseed sa sx :: bs.map .ckbyte) ++ rest →
    run (bs.length + 1) s = .next { s with
      pending := rest
      block := { s.block with accAdd := ckAdd bs sa, accXor := ckXor bs sx, err := 0 } }

/-! ## The receive side over runs -/

/-- After `RXCLR` and a push of every byte received, in order, `RXBUF` holds the first 16 of them and zeros, `RXCNT`
how many were stored, and `ERR` says whether one was dropped (R20, R21, R153). -/
def Obligations.ReceiveBufferHoldsTheFirstSixteen : Prop :=
  ∀ (bs : List Byte) (rest : List Transaction) (s : State),
    s.started = true → s.pending = commandWrites (rxloadCommands bs) ++ rest →
    run (bs.length + 1) s = .next { s with
      pending := rest
      block := { s.block with
        rxbuf := bs.take 16 ++ List.replicate (16 - bs.length) 0
        rxcnt := BitVec.ofNat 8 (min bs.length 16)
        err := if bs.length ≤ 16 then 0 else 4 } }

/-- Round trip of the position (R118): whatever the other bytes of an acknowledgement of at least 10 bytes are, the
position whose low byte came at offset 6 and whose high byte at offset 7 is decoded. -/
def Obligations.ReceivedPositionRoundTrips : Prop :=
  ∀ (p : Half) (bs : List Byte) (rest : List Transaction) (s : State),
    10 ≤ bs.length →
    bs[6]? = some (BitVec.ofNat 8 (p.toNat % 256)) → bs[7]? = some (BitVec.ofNat 8 (p.toNat / 256)) →
    s.started = true → s.pending = commandWrites (receiveExchange bs) ++ rest →
    ∃ t, run (bs.length + 2) s = .next t ∧ t.pending = rest ∧ t.block.ackPos = p ∧ t.block.ackValid = true ∧
      t.block.err = 0

/-- A reply of fewer than 10 bytes, as a timed-out transport read leaves it, ends in `TRUNCATED_FRAME` with its
length recorded and no status valid (R131, R127). -/
def Obligations.ShortReplyIsReported : Prop :=
  ∀ (bs : List Byte) (rest : List Transaction) (s : State),
    bs.length < 10 → s.started = true → s.pending = commandWrites (receiveExchange bs) ++ rest →
    ∃ t, run (bs.length + 2) s = .next t ∧ t.pending = rest ∧ t.block.ackValid = false ∧ t.block.ackPos = 0 ∧
      t.block.ackRawcnt.toNat = bs.length ∧ t.block.err = 1

/-- `DECACK` does not change its input, and run twice it leaves what it left once, in every implementation (R117). -/
def Obligations.DecackIsIdempotent : Prop :=
  ∀ (p : Params) (k : Block),
    (runCommand p .decack k).rxbuf = k.rxbuf ∧ (runCommand p .decack k).rxcnt = k.rxcnt ∧
    runCommand p .decack (runCommand p .decack k) = runCommand p .decack k

/-- Without an `RXCLR` a new acknowledgement goes after the old one: once 10 bytes are in the buffer, `DECACK`
decodes the old fields whatever is pushed (R149). -/
def Obligations.WithoutRxclrTheOldFieldsAreDecoded : Prop :=
  ∀ (bs : List Byte) (rest : List Transaction) (s u : State),
    s.started = true → s.block.Inv Params.hw → 10 ≤ s.block.rxcnt.toNat →
    s.pending = commandWrites (bs.map .rxpush ++ [.decack]) ++ rest → exec .decack s = .next u →
    ∃ t, run (bs.length + 1) s = .next t ∧
      t.block.ackPos = u.block.ackPos ∧ t.block.ackVolt = u.block.ackVolt ∧ t.block.ackTorq = u.block.ackTorq ∧
      t.block.ackEngaged = u.block.ackEngaged ∧ t.block.ackSlipping = u.block.ackSlipping ∧
      t.block.ackValarm = u.block.ackValarm ∧ t.block.ackRawflags = u.block.ackRawflags ∧
      t.block.ackRawcnt.toNat = min (s.block.rxcnt.toNat + bs.length) 16

/-! ## Every implementation: the parameters of R6 -/

/-- `DECACK` at any parameters (R116): the length check first; then, with `P_ACK_VERIFY = true`, the recomputed
checksums go to the accumulators and a difference raises `ChecksumMismatch` (R128); else the fields are decoded. -/
def Obligations.DecackAtAnyParameters : Prop :=
  ∀ (p : Params) (k : Block),
    let b := byteAt k.rxbuf
    let seg := (k.rxbuf.drop p.ackCkFirst).take (p.ackCkLast + 1 - p.ackCkFirst)
    let ca := ckAdd seg p.ackSeedAdd
    let cx := ckXor seg p.ackSeedXor
    let cleared (e : ErrBits) : Block := { k with
      ackPos := 0, ackVolt := 0, ackTorq := 0, ackEngaged := false, ackSlipping := false, ackValarm := false,
      ackRawflags := 0, ackRawcnt := k.rxcnt, ackValid := false, err := e }
    let decoded : Block := { k with
      ackPos := BitVec.ofNat 16 ((b 7).toNat * 256 + (b 6).toNat)
      ackVolt := b 8
      ackTorq := b 9
      ackEngaged := (b 5) &&& 0x01 != 0
      ackSlipping := (b 5) &&& 0x02 != 0
      ackValarm := (b 5) &&& p.alarmMask != 0
      ackRawflags := b 5
      ackRawcnt := k.rxcnt
      ackValid := true
      err := 0 }
    (k.rxcnt.toNat < p.ackMin → runCommand p .decack k = cleared 1) ∧
    (p.ackMin ≤ k.rxcnt.toNat → p.ackVerify = false → runCommand p .decack k = decoded) ∧
    (p.ackMin ≤ k.rxcnt.toNat → p.ackVerify = true → ca = b p.ackAddAt ∧ cx = b p.ackXorAt →
      runCommand p .decack k = { decoded with accAdd := ca, accXor := cx }) ∧
    (p.ackMin ≤ k.rxcnt.toNat → p.ackVerify = true → ¬(ca = b p.ackAddAt ∧ cx = b p.ackXorAt) →
      runCommand p .decack k = { cleared 2 with accAdd := ca, accXor := cx })

/-- The command `DECACK` is the pure function `decode_ack` over the received bytes (R106), at any legal parameters:
the registers hold its status exactly when it succeeds, and `ERR` its error exactly when it fails. -/
def Obligations.DecackIsThePureDecoder : Prop :=
  ∀ (p : Params) (k : Block), p.Legal → k.Inv p →
    let t := runCommand p .decack k
    (∀ st, decodeAck p (k.rxbuf.take k.rxcnt.toNat) = .ok st →
      t.ackValid = true ∧ t.err = 0 ∧ t.ackPos = st.position ∧ t.ackVolt = st.voltage ∧ t.ackTorq = st.torque ∧
      t.ackEngaged = st.engaged ∧ t.ackSlipping = st.slipping ∧ t.ackValarm = st.voltageAlarm ∧
      t.ackRawflags = st.rawflags ∧ t.ackRawcnt = st.rawcnt) ∧
    (∀ e, decodeAck p (k.rxbuf.take k.rxcnt.toNat) = .error e → t.ackValid = false ∧ t.err = e.code)

/-- The length byte is the payload's length plus `P_LEN_ADJ` (R80), at any legal parameters: 6 and 15 when it is 0,
8 and 17 when it is 2. -/
def Obligations.LengthByteAtAnyParameters : Prop :=
  ∀ (p : Params) (n : Byte) (pos : Half) (k : Block), p.Legal →
    let len (i : Instr) := (byteAt (runCommand p i k).txbuf 2).toNat
    len (.encasn n) = 6 + p.lenAdj ∧ len .encpoll = 15 + p.lenAdj ∧ len (.encmove pos) = 15 + p.lenAdj

/-- The invariants of R33 hold after every command, in every implementation with legal parameters. -/
def Obligations.CommandsKeepTheInvariants : Prop :=
  ∀ (p : Params) (i : Instr) (k : Block), p.Legal → k.Inv p → (runCommand p i k).Inv p

/-! ## Invariants of the machine -/

/-- The reset state satisfies the invariants of R33 and has its flags agree with the raw flag byte, in every
implementation. -/
def Obligations.ResetMeetsTheInvariants : Prop :=
  (∀ p : Params, (Block.reset p).Inv p ∧ (Block.reset p).FlagsAgree p) ∧
    State.reset.block.Inv Params.hw ∧ State.reset.started = true

/-- Every step keeps the invariants of R33: buffer sizes, `RXCNT <= P_RX_CAP`, zeros after the received bytes and
after the frame, `TXLEN` one of 0, 11, 20, cleared ack registers while `ACK_VALID` is false, `ERR` at most 4. -/
def Obligations.StepKeepsTheInvariants : Prop :=
  ∀ s t : State, s.block.Inv Params.hw → step s = .next t → t.block.Inv Params.hw

/-- Every step keeps the three flags agreeing with the raw flag byte beside them (R28, R110 to R112). -/
def Obligations.StepKeepsTheFlagsAgreeing : Prop :=
  ∀ s t : State, s.block.FlagsAgree Params.hw → step s = .next t → t.block.FlagsAgree Params.hw

/-! ## Host agents and whole exchanges -/

/-- An agent that only reads cannot disturb another: for every interleaving of an agent's admitted transactions with
another agent's reads, the block ends as if the first had been alone (R54, R62). -/
def Obligations.ReadersDoNotDisturbTheBlock : Prop :=
  ∀ (s : State) (a b l : List Transaction),
    s.started = true → Interleaving a b l → (∀ t ∈ a, t.Accepted) → (∀ t ∈ b, t.IsRead) →
    ∃ t u, run l.length { s with pending := l } = .next t ∧ run a.length { s with pending := a } = .next u ∧
      t.block = u.block

/-- A host that reads `TXLEN` and then the window in index order gets the bytes of the transmit buffer, offset 0
first, and disturbs nothing (R18, R47, R139). -/
def Obligations.FrameReadsDeliverTheBuffer : Prop :=
  ∀ (n : Nat) (rest : List Transaction) (s : State),
    n ≤ 32 → s.started = true → s.block.txbuf.length = 32 → s.pending = frameReads n ++ rest →
    run (n + 1) s = .next { s with
      pending := rest
      replies := s.replies ++ zextByte s.block.txlen :: (s.block.txbuf.take n).map zextByte }

/-- One full exchange with a host that keeps its duties (R139, R146; the scenario of 95_test_vectors.md L1.8):
`RXCLR`, `ENCMOVE p`, the frame read out, the reply pushed, `DECACK`, and the status read. For every position and
every reply of 10 to 16 bytes the host gets the 20 frame bytes of R87 and the reply's fields. -/
def Obligations.FullExchangeDeliversFrameAndStatus : Prop :=
  ∀ (p : Half) (bs : List Byte) (rest : List Transaction) (s : State),
    10 ≤ bs.length → bs.length ≤ 16 → s.started = true →
    s.pending = commandWrites [.rxclr, .encmove p] ++ frameReads 20
      ++ commandWrites (bs.map .rxpush ++ [.decack]) ++ statusReads ++ rest →
    let lo : Byte := BitVec.ofNat 8 (p.toNat % 256)
    let hi : Byte := BitVec.ofNat 8 (p.toNat / 256)
    let sent : List Byte := [0xD5, 0x82, 0x0F, 0x01, 0x00, 0x01, 0x01, lo, hi, 0, 0, 0, 0, 0, 0, 0, 0, 0,
      BitVec.ofNat 8 (0xAD + lo.toNat + hi.toNat), 0x54 ^^^ lo ^^^ hi]
    let b := byteAt bs
    let flags := (b 5).toNat % 4 + (if (b 5).toNat % 4 = 0 then 0 else 4) + 256 * (b 5).toNat
    ∃ t, run (bs.length + 30) s = .next t ∧ t.pending = rest ∧
      t.replies = s.replies ++ [20] ++ sent.map zextByte ++
        [0x10, BitVec.ofNat 32 ((b 7).toNat * 256 + (b 6).toNat), zextByte (b 8), zextByte (b 9),
         BitVec.ofNat 32 flags, BitVec.ofNat 32 bs.length]

/-! ## The assembler -/

/-- The word of every line of R77's table, and that an immediate out of range spells none. -/
def Obligations.AssemblerSpellsTheTableOfWords : Prop :=
  ∀ a b p : Nat,
    let words (l : AsmLine) := l.expand.map (List.map encode)
    words .nop = .ok [0x00000000] ∧ words .encpoll = .ok [0x00000011] ∧
    words .rxclr = .ok [0x00000020] ∧ words .decack = .ok [0x00000022] ∧
    (a ≤ 255 → b ≤ 255 → words (.ckseed a b) = .ok [BitVec.ofNat 32 (b * 65536 + a * 256 + 0x01)]) ∧
    (a ≤ 255 → words (.ckbyte a) = .ok [BitVec.ofNat 32 (a * 256 + 0x02)] ∧
      words (.encasn a) = .ok [BitVec.ofNat 32 (a * 256 + 0x10)] ∧
      words (.rxpush a) = .ok [BitVec.ofNat 32 (a * 256 + 0x21)]) ∧
    (p ≤ 65535 → words (.encmove p) = .ok [BitVec.ofNat 32 (p * 256 + 0x12)]) ∧
    (255 < a → words (.ckbyte a) = .error (.outOfRange a) ∧ words (.encasn a) = .error (.outOfRange a) ∧
      words (.rxpush a) = .error (.outOfRange a) ∧ words (.ckseed a b) = .error (.outOfRange a)) ∧
    (a ≤ 255 → 255 < b → words (.ckseed a b) = .error (.outOfRange b)) ∧
    (65535 < p → words (.encmove p) = .error (.outOfRange p))

/-- The pseudo-instructions and what running their expansions leaves (R78). -/
def Obligations.PseudoInstructionsExpandAsR78Says : Prop :=
  AsmLine.ckinit.expand = .ok [.ckseed 0xAA 0x55] ∧
  AsmLine.expand (.cksum []) = AsmLine.ckinit.expand ∧
  AsmLine.encposPoll.expand = .ok [.encpoll] ∧
  (∀ p : Half, AsmLine.expand (.encpos p.toNat) = .ok [.encmove p]) ∧
  (∀ (bs : List Byte) (s : State), s.started = true →
    (∃ is, AsmLine.expand (.cksum (bs.map BitVec.toNat)) = .ok is ∧
      is = .ckseed 0xAA 0x55 :: bs.map .ckbyte ∧
      (s.pending = commandWrites is → ∃ t, run is.length s = .next t ∧
        t.block.readAt Params.hw 0x008 = zextByte (ckAdd bs 0xAA) ∧
        t.block.readAt Params.hw 0x00C = zextByte (ckXor bs 0x55))) ∧
    (bs ≠ [] → ∃ is, AsmLine.expand (.rxload (bs.map BitVec.toNat)) = .ok is ∧
      is = .rxclr :: bs.map .rxpush ∧
      (bs.length ≤ 16 → s.pending = commandWrites is → ∃ t, run is.length s = .next t ∧
        t.block.rxbuf.take bs.length = bs ∧ t.block.rxcnt.toNat = bs.length)))
end

