-- ==== Sys2Proof/Laws/Fields.lean ====
section
/-! SUPPORT. Fields, positions and encoded words as numbers: with these, a goal about bits is a goal for omega. -/

namespace Sys2Proof

namespace Machine

theorem fieldOp_toNat (w : Word) : (fieldOp w).toNat = w.toNat % 256 := by
  simp [fieldOp, BitVec.extractLsb'_toNat]

theorem fieldA_toNat (w : Word) : (fieldA w).toNat = w.toNat / 256 % 256 := by
  simp [fieldA, BitVec.extractLsb'_toNat, Nat.shiftRight_eq_div_pow]

theorem fieldB_toNat (w : Word) : (fieldB w).toNat = w.toNat / 65536 % 256 := by
  simp [fieldB, BitVec.extractLsb'_toNat, Nat.shiftRight_eq_div_pow]

theorem fieldRsv_toNat (w : Word) : (fieldRsv w).toNat = w.toNat / 16777216 := by
  have := w.isLt
  simp [fieldRsv, BitVec.extractLsb'_toNat, Nat.shiftRight_eq_div_pow]
  omega

theorem fieldPos_toNat (w : Word) : (fieldPos w).toNat = w.toNat / 256 % 65536 := by
  simp [fieldPos, BitVec.extractLsb'_toNat, Nat.shiftRight_eq_div_pow]

/-- "so that `POS = B * 256 + A`" (30_encoding.md R69). -/
theorem fieldPos_eq (w : Word) : (fieldPos w).toNat = (fieldB w).toNat * 256 + (fieldA w).toNat := by
  rw [fieldPos_toNat, fieldB_toNat, fieldA_toNat]
  omega

/-- The position field is 0 exactly when its two bytes are. -/
theorem fieldPos_eq_zero (w : Word) : fieldPos w = 0 ↔ fieldA w = 0 ∧ fieldB w = 0 := by
  have h := fieldPos_eq w
  have ha := (fieldA w).isLt
  have z8 : (0 : Byte).toNat = 0 := rfl
  have z16 : (0 : Half).toNat = 0 := rfl
  simp only [← BitVec.toNat_inj, z8, z16]
  omega

theorem posLo_toNat (p : Half) : (posLo p).toNat = p.toNat % 256 := by
  simp [posLo, BitVec.extractLsb'_toNat]

theorem posHi_toNat (p : Half) : (posHi p).toNat = p.toNat / 256 := by
  have := p.isLt
  simp [posHi, BitVec.extractLsb'_toNat, Nat.shiftRight_eq_div_pow]
  omega

theorem posOfBytes_toNat (lo hi : Byte) : (posOfBytes lo hi).toNat = hi.toNat * 256 + lo.toNat := by
  have := lo.isLt
  have := hi.isLt
  simp [posOfBytes]
  omega

@[simp] theorem zextByte_toNat (b : Byte) : (zextByte b).toNat = b.toNat := by
  have := b.isLt
  simp [zextByte]
  omega

@[simp] theorem zextHalf_toNat (h : Half) : (zextHalf h).toNat = h.toNat := by
  have := h.isLt
  simp [zextHalf]
  omega

end Machine

open Machine

/-- An operand shifted above an opcode: the `or` is a sum. -/
theorem shifted_or_toNat {n : Nat} (x : BitVec n) (op : Nat) (hn : n ≤ 16) (hop : op < 256) :
    ((x.setWidth 32 <<< 8 : Word) ||| BitVec.ofNat 32 op).toNat = x.toNat * 256 + op := by
  have hx : x.toNat < 65536 := Nat.lt_of_lt_of_le x.isLt (Nat.pow_le_pow_right (by omega) hn)
  have h := Nat.shiftLeft_add_eq_or_of_lt (b := op) (i := 8) (by omega) x.toNat
  simp only [BitVec.toNat_or, BitVec.toNat_shiftLeft, BitVec.toNat_setWidth, BitVec.toNat_ofNat]
  rw [Nat.mod_eq_of_lt (a := op) (by omega), Nat.mod_eq_of_lt (a := x.toNat) (by omega),
    Nat.mod_eq_of_lt (by rw [Nat.shiftLeft_eq]; omega), ← h, Nat.shiftLeft_eq]

theorem encode_ckbyte_toNat (b : Byte) : (encode (.ckbyte b)).toNat = b.toNat * 256 + 0x02 :=
  shifted_or_toNat b 0x02 (by omega) (by omega)

theorem encode_encasn_toNat (n : Byte) : (encode (.encasn n)).toNat = n.toNat * 256 + 0x10 :=
  shifted_or_toNat n 0x10 (by omega) (by omega)

theorem encode_encmove_toNat (p : Half) : (encode (.encmove p)).toNat = p.toNat * 256 + 0x12 :=
  shifted_or_toNat p 0x12 (by omega) (by omega)

theorem encode_rxpush_toNat (b : Byte) : (encode (.rxpush b)).toNat = b.toNat * 256 + 0x21 :=
  shifted_or_toNat b 0x21 (by omega) (by omega)

theorem encode_ckseed_toNat (sa sx : Byte) :
    (encode (.ckseed sa sx)).toNat = sx.toNat * 65536 + sa.toNat * 256 + 0x01 := by
  have hsx := sx.isLt
  have hsa := sa.isLt
  have low := shifted_or_toNat sa 0x01 (by omega) (by omega)
  have h := Nat.shiftLeft_add_eq_or_of_lt (b := sa.toNat * 256 + 1) (i := 16) (by omega) sx.toNat
  change ((sx.setWidth 32 <<< 16 ||| sa.setWidth 32 <<< 8 ||| 0x01 : Word)).toNat = _
  rw [BitVec.or_assoc, BitVec.toNat_or]
  change ((sx.setWidth 32 <<< 16 : Word)).toNat ||| (sa.setWidth 32 <<< 8 ||| 1#32 : Word).toNat = _
  rw [low, BitVec.toNat_shiftLeft, BitVec.toNat_setWidth, Nat.mod_eq_of_lt (a := sx.toNat) (by omega),
    Nat.mod_eq_of_lt (by rw [Nat.shiftLeft_eq]; omega), ← h, Nat.shiftLeft_eq]
  omega

end Sys2Proof
end

