-- ==== Sys2Proof/Laws/Params.lean ====
section
/-! SUPPORT. The parameters of this hardware, one lemma per value the spec fixes (00_scope.md R6), and that they are
legal whatever the OPEN ones are. -/

namespace Sys2Proof

@[simp] theorem Params.hw_ackLen : Params.hw.ackLen = 10 := rfl
@[simp] theorem Params.hw_rxCap : Params.hw.rxCap = 16 := rfl
@[simp] theorem Params.hw_txCap : Params.hw.txCap = 32 := rfl
@[simp] theorem Params.hw_lenAdj : Params.hw.lenAdj = 0 := rfl
@[simp] theorem Params.hw_alarmMask : Params.hw.alarmMask = 0x03 := rfl
@[simp] theorem Params.hw_ackVerify : Params.hw.ackVerify = false := rfl
@[simp] theorem Params.hw_ackMin : Params.hw.ackMin = 10 := rfl

/-- The parameters of this hardware are in R6's legal ranges for every value of the OPEN ones. -/
theorem Params.hw_legal : Params.hw.Legal where
  ackLen := by decide
  rxCap := by decide
  txCap := by decide
  lenAdj := by decide
  ackCkFirst := Config.ackCkFirst.isLt
  ackCkLast := ⟨Nat.le_max_left _ _, Nat.max_lt.mpr ⟨Config.ackCkFirst.isLt, Config.ackCkLastFree.isLt⟩⟩
  ackAddAt := Config.ackAddAt.isLt
  ackXorAt := Config.ackXorAt.isLt
  ackMin := by decide

/-- `P_ACK_MIN` is at least `P_ACK_LEN`, so at least 10 where the parameters are legal. -/
theorem Params.Legal.ten_le_ackMin {p : Params} (h : p.Legal) : 10 ≤ p.ackMin := by
  have := h.ackLen
  unfold Params.ackMin
  split <;> omega

/-- With verification on, every offset that `verify_ack` reads is below `P_ACK_MIN`. -/
theorem Params.ackOffsets_lt_ackMin {p : Params} (hv : p.ackVerify = true) :
    p.ackCkLast < p.ackMin ∧ p.ackAddAt < p.ackMin ∧ p.ackXorAt < p.ackMin := by
  unfold Params.ackMin
  rw [if_pos hv]
  omega

end Sys2Proof
end

