-- ==== Sys2Proof/Laws/State.lean ====
section
/-! SUPPORT. What each update of the block and of the port leaves in each field, one lemma per field per update, so
that no later proof unfolds a record update. -/

namespace Sys2Proof.Machine

/-! ## The ends of a command are `setErr` -/

@[simp] theorem Block.ok_eq (k : Block) : k.ok = k.setErr 0 := rfl
@[simp] theorem Block.raise_eq (e : BlockError) (k : Block) : k.raise e = k.setErr e.code := rfl
@[simp] theorem BlockError.code_truncatedFrame : BlockError.truncatedFrame.code = 1 := rfl
@[simp] theorem BlockError.code_checksumMismatch : BlockError.checksumMismatch.code = 2 := rfl
@[simp] theorem BlockError.code_illegalCommand : BlockError.illegalCommand.code = 3 := rfl
@[simp] theorem BlockError.code_rxOverflow : BlockError.rxOverflow.code = 4 := rfl

/-! ## `Block.setErr` -/

@[simp] theorem Block.setErr_accAdd (e : ErrBits) (k : Block) : (k.setErr e).accAdd = k.accAdd := rfl
@[simp] theorem Block.setErr_accXor (e : ErrBits) (k : Block) : (k.setErr e).accXor = k.accXor := rfl
@[simp] theorem Block.setErr_txbuf (e : ErrBits) (k : Block) : (k.setErr e).txbuf = k.txbuf := rfl
@[simp] theorem Block.setErr_txlen (e : ErrBits) (k : Block) : (k.setErr e).txlen = k.txlen := rfl
@[simp] theorem Block.setErr_rxbuf (e : ErrBits) (k : Block) : (k.setErr e).rxbuf = k.rxbuf := rfl
@[simp] theorem Block.setErr_rxcnt (e : ErrBits) (k : Block) : (k.setErr e).rxcnt = k.rxcnt := rfl
@[simp] theorem Block.setErr_ackPos (e : ErrBits) (k : Block) : (k.setErr e).ackPos = k.ackPos := rfl
@[simp] theorem Block.setErr_ackVolt (e : ErrBits) (k : Block) : (k.setErr e).ackVolt = k.ackVolt := rfl
@[simp] theorem Block.setErr_ackTorq (e : ErrBits) (k : Block) : (k.setErr e).ackTorq = k.ackTorq := rfl
@[simp] theorem Block.setErr_ackEngaged (e : ErrBits) (k : Block) : (k.setErr e).ackEngaged = k.ackEngaged := rfl
@[simp] theorem Block.setErr_ackSlipping (e : ErrBits) (k : Block) : (k.setErr e).ackSlipping = k.ackSlipping := rfl
@[simp] theorem Block.setErr_ackValarm (e : ErrBits) (k : Block) : (k.setErr e).ackValarm = k.ackValarm := rfl
@[simp] theorem Block.setErr_ackRawflags (e : ErrBits) (k : Block) : (k.setErr e).ackRawflags = k.ackRawflags := rfl
@[simp] theorem Block.setErr_ackRawcnt (e : ErrBits) (k : Block) : (k.setErr e).ackRawcnt = k.ackRawcnt := rfl
@[simp] theorem Block.setErr_ackValid (e : ErrBits) (k : Block) : (k.setErr e).ackValid = k.ackValid := rfl
@[simp] theorem Block.setErr_err (e : ErrBits) (k : Block) : (k.setErr e).err = e := rfl

/-! ## `Block.setAcc` -/

@[simp] theorem Block.setAcc_accAdd (a x : Byte) (k : Block) : (k.setAcc a x).accAdd = a := rfl
@[simp] theorem Block.setAcc_accXor (a x : Byte) (k : Block) : (k.setAcc a x).accXor = x := rfl
@[simp] theorem Block.setAcc_txbuf (a x : Byte) (k : Block) : (k.setAcc a x).txbuf = k.txbuf := rfl
@[simp] theorem Block.setAcc_txlen (a x : Byte) (k : Block) : (k.setAcc a x).txlen = k.txlen := rfl
@[simp] theorem Block.setAcc_rxbuf (a x : Byte) (k : Block) : (k.setAcc a x).rxbuf = k.rxbuf := rfl
@[simp] theorem Block.setAcc_rxcnt (a x : Byte) (k : Block) : (k.setAcc a x).rxcnt = k.rxcnt := rfl
@[simp] theorem Block.setAcc_ackPos (a x : Byte) (k : Block) : (k.setAcc a x).ackPos = k.ackPos := rfl
@[simp] theorem Block.setAcc_ackVolt (a x : Byte) (k : Block) : (k.setAcc a x).ackVolt = k.ackVolt := rfl
@[simp] theorem Block.setAcc_ackTorq (a x : Byte) (k : Block) : (k.setAcc a x).ackTorq = k.ackTorq := rfl
@[simp] theorem Block.setAcc_ackEngaged (a x : Byte) (k : Block) : (k.setAcc a x).ackEngaged = k.ackEngaged := rfl
@[simp] theorem Block.setAcc_ackSlipping (a x : Byte) (k : Block) : (k.setAcc a x).ackSlipping = k.ackSlipping := rfl
@[simp] theorem Block.setAcc_ackValarm (a x : Byte) (k : Block) : (k.setAcc a x).ackValarm = k.ackValarm := rfl
@[simp] theorem Block.setAcc_ackRawflags (a x : Byte) (k : Block) : (k.setAcc a x).ackRawflags = k.ackRawflags := rfl
@[simp] theorem Block.setAcc_ackRawcnt (a x : Byte) (k : Block) : (k.setAcc a x).ackRawcnt = k.ackRawcnt := rfl
@[simp] theorem Block.setAcc_ackValid (a x : Byte) (k : Block) : (k.setAcc a x).ackValid = k.ackValid := rfl
@[simp] theorem Block.setAcc_err (a x : Byte) (k : Block) : (k.setAcc a x).err = k.err := rfl

/-! ## `Block.setTx` -/

@[simp] theorem Block.setTx_accAdd (b : List Byte) (n : Byte) (k : Block) : (k.setTx b n).accAdd = k.accAdd := rfl
@[simp] theorem Block.setTx_accXor (b : List Byte) (n : Byte) (k : Block) : (k.setTx b n).accXor = k.accXor := rfl
@[simp] theorem Block.setTx_txbuf (b : List Byte) (n : Byte) (k : Block) : (k.setTx b n).txbuf = b := rfl
@[simp] theorem Block.setTx_txlen (b : List Byte) (n : Byte) (k : Block) : (k.setTx b n).txlen = n := rfl
@[simp] theorem Block.setTx_rxbuf (b : List Byte) (n : Byte) (k : Block) : (k.setTx b n).rxbuf = k.rxbuf := rfl
@[simp] theorem Block.setTx_rxcnt (b : List Byte) (n : Byte) (k : Block) : (k.setTx b n).rxcnt = k.rxcnt := rfl
@[simp] theorem Block.setTx_ackPos (b : List Byte) (n : Byte) (k : Block) : (k.setTx b n).ackPos = k.ackPos := rfl
@[simp] theorem Block.setTx_ackVolt (b : List Byte) (n : Byte) (k : Block) : (k.setTx b n).ackVolt = k.ackVolt := rfl
@[simp] theorem Block.setTx_ackTorq (b : List Byte) (n : Byte) (k : Block) : (k.setTx b n).ackTorq = k.ackTorq := rfl
@[simp] theorem Block.setTx_ackEngaged (b : List Byte) (n : Byte) (k : Block) : (k.setTx b n).ackEngaged = k.ackEngaged := rfl
@[simp] theorem Block.setTx_ackSlipping (b : List Byte) (n : Byte) (k : Block) : (k.setTx b n).ackSlipping = k.ackSlipping := rfl
@[simp] theorem Block.setTx_ackValarm (b : List Byte) (n : Byte) (k : Block) : (k.setTx b n).ackValarm = k.ackValarm := rfl
@[simp] theorem Block.setTx_ackRawflags (b : List Byte) (n : Byte) (k : Block) : (k.setTx b n).ackRawflags = k.ackRawflags := rfl
@[simp] theorem Block.setTx_ackRawcnt (b : List Byte) (n : Byte) (k : Block) : (k.setTx b n).ackRawcnt = k.ackRawcnt := rfl
@[simp] theorem Block.setTx_ackValid (b : List Byte) (n : Byte) (k : Block) : (k.setTx b n).ackValid = k.ackValid := rfl
@[simp] theorem Block.setTx_err (b : List Byte) (n : Byte) (k : Block) : (k.setTx b n).err = k.err := rfl

/-! ## `Block.setRx` -/

@[simp] theorem Block.setRx_accAdd (b : List Byte) (n : Byte) (k : Block) : (k.setRx b n).accAdd = k.accAdd := rfl
@[simp] theorem Block.setRx_accXor (b : List Byte) (n : Byte) (k : Block) : (k.setRx b n).accXor = k.accXor := rfl
@[simp] theorem Block.setRx_txbuf (b : List Byte) (n : Byte) (k : Block) : (k.setRx b n).txbuf = k.txbuf := rfl
@[simp] theorem Block.setRx_txlen (b : List Byte) (n : Byte) (k : Block) : (k.setRx b n).txlen = k.txlen := rfl
@[simp] theorem Block.setRx_rxbuf (b : List Byte) (n : Byte) (k : Block) : (k.setRx b n).rxbuf = b := rfl
@[simp] theorem Block.setRx_rxcnt (b : List Byte) (n : Byte) (k : Block) : (k.setRx b n).rxcnt = n := rfl
@[simp] theorem Block.setRx_ackPos (b : List Byte) (n : Byte) (k : Block) : (k.setRx b n).ackPos = k.ackPos := rfl
@[simp] theorem Block.setRx_ackVolt (b : List Byte) (n : Byte) (k : Block) : (k.setRx b n).ackVolt = k.ackVolt := rfl
@[simp] theorem Block.setRx_ackTorq (b : List Byte) (n : Byte) (k : Block) : (k.setRx b n).ackTorq = k.ackTorq := rfl
@[simp] theorem Block.setRx_ackEngaged (b : List Byte) (n : Byte) (k : Block) : (k.setRx b n).ackEngaged = k.ackEngaged := rfl
@[simp] theorem Block.setRx_ackSlipping (b : List Byte) (n : Byte) (k : Block) : (k.setRx b n).ackSlipping = k.ackSlipping := rfl
@[simp] theorem Block.setRx_ackValarm (b : List Byte) (n : Byte) (k : Block) : (k.setRx b n).ackValarm = k.ackValarm := rfl
@[simp] theorem Block.setRx_ackRawflags (b : List Byte) (n : Byte) (k : Block) : (k.setRx b n).ackRawflags = k.ackRawflags := rfl
@[simp] theorem Block.setRx_ackRawcnt (b : List Byte) (n : Byte) (k : Block) : (k.setRx b n).ackRawcnt = k.ackRawcnt := rfl
@[simp] theorem Block.setRx_ackValid (b : List Byte) (n : Byte) (k : Block) : (k.setRx b n).ackValid = k.ackValid := rfl
@[simp] theorem Block.setRx_err (b : List Byte) (n : Byte) (k : Block) : (k.setRx b n).err = k.err := rfl

/-! ## `Block.setRawcnt` -/

@[simp] theorem Block.setRawcnt_accAdd (n : Byte) (k : Block) : (k.setRawcnt n).accAdd = k.accAdd := rfl
@[simp] theorem Block.setRawcnt_accXor (n : Byte) (k : Block) : (k.setRawcnt n).accXor = k.accXor := rfl
@[simp] theorem Block.setRawcnt_txbuf (n : Byte) (k : Block) : (k.setRawcnt n).txbuf = k.txbuf := rfl
@[simp] theorem Block.setRawcnt_txlen (n : Byte) (k : Block) : (k.setRawcnt n).txlen = k.txlen := rfl
@[simp] theorem Block.setRawcnt_rxbuf (n : Byte) (k : Block) : (k.setRawcnt n).rxbuf = k.rxbuf := rfl
@[simp] theorem Block.setRawcnt_rxcnt (n : Byte) (k : Block) : (k.setRawcnt n).rxcnt = k.rxcnt := rfl
@[simp] theorem Block.setRawcnt_ackPos (n : Byte) (k : Block) : (k.setRawcnt n).ackPos = k.ackPos := rfl
@[simp] theorem Block.setRawcnt_ackVolt (n : Byte) (k : Block) : (k.setRawcnt n).ackVolt = k.ackVolt := rfl
@[simp] theorem Block.setRawcnt_ackTorq (n : Byte) (k : Block) : (k.setRawcnt n).ackTorq = k.ackTorq := rfl
@[simp] theorem Block.setRawcnt_ackEngaged (n : Byte) (k : Block) : (k.setRawcnt n).ackEngaged = k.ackEngaged := rfl
@[simp] theorem Block.setRawcnt_ackSlipping (n : Byte) (k : Block) : (k.setRawcnt n).ackSlipping = k.ackSlipping := rfl
@[simp] theorem Block.setRawcnt_ackValarm (n : Byte) (k : Block) : (k.setRawcnt n).ackValarm = k.ackValarm := rfl
@[simp] theorem Block.setRawcnt_ackRawflags (n : Byte) (k : Block) : (k.setRawcnt n).ackRawflags = k.ackRawflags := rfl
@[simp] theorem Block.setRawcnt_ackRawcnt (n : Byte) (k : Block) : (k.setRawcnt n).ackRawcnt = n := rfl
@[simp] theorem Block.setRawcnt_ackValid (n : Byte) (k : Block) : (k.setRawcnt n).ackValid = k.ackValid := rfl
@[simp] theorem Block.setRawcnt_err (n : Byte) (k : Block) : (k.setRawcnt n).err = k.err := rfl

/-! ## `Block.setAck` -/

@[simp] theorem Block.setAck_accAdd (st : AckStatus) (k : Block) : (k.setAck st).accAdd = k.accAdd := rfl
@[simp] theorem Block.setAck_accXor (st : AckStatus) (k : Block) : (k.setAck st).accXor = k.accXor := rfl
@[simp] theorem Block.setAck_txbuf (st : AckStatus) (k : Block) : (k.setAck st).txbuf = k.txbuf := rfl
@[simp] theorem Block.setAck_txlen (st : AckStatus) (k : Block) : (k.setAck st).txlen = k.txlen := rfl
@[simp] theorem Block.setAck_rxbuf (st : AckStatus) (k : Block) : (k.setAck st).rxbuf = k.rxbuf := rfl
@[simp] theorem Block.setAck_rxcnt (st : AckStatus) (k : Block) : (k.setAck st).rxcnt = k.rxcnt := rfl
@[simp] theorem Block.setAck_ackPos (st : AckStatus) (k : Block) : (k.setAck st).ackPos = st.position := rfl
@[simp] theorem Block.setAck_ackVolt (st : AckStatus) (k : Block) : (k.setAck st).ackVolt = st.voltage := rfl
@[simp] theorem Block.setAck_ackTorq (st : AckStatus) (k : Block) : (k.setAck st).ackTorq = st.torque := rfl
@[simp] theorem Block.setAck_ackEngaged (st : AckStatus) (k : Block) : (k.setAck st).ackEngaged = st.engaged := rfl
@[simp] theorem Block.setAck_ackSlipping (st : AckStatus) (k : Block) : (k.setAck st).ackSlipping = st.slipping := rfl
@[simp] theorem Block.setAck_ackValarm (st : AckStatus) (k : Block) : (k.setAck st).ackValarm = st.voltageAlarm := rfl
@[simp] theorem Block.setAck_ackRawflags (st : AckStatus) (k : Block) : (k.setAck st).ackRawflags = st.rawflags := rfl
@[simp] theorem Block.setAck_ackRawcnt (st : AckStatus) (k : Block) : (k.setAck st).ackRawcnt = st.rawcnt := rfl
@[simp] theorem Block.setAck_ackValid (st : AckStatus) (k : Block) : (k.setAck st).ackValid = true := rfl
@[simp] theorem Block.setAck_err (st : AckStatus) (k : Block) : (k.setAck st).err = k.err := rfl

/-! ## `Block.clearAck` -/

@[simp] theorem Block.clearAck_accAdd (k : Block) : k.clearAck.accAdd = k.accAdd := rfl
@[simp] theorem Block.clearAck_accXor (k : Block) : k.clearAck.accXor = k.accXor := rfl
@[simp] theorem Block.clearAck_txbuf (k : Block) : k.clearAck.txbuf = k.txbuf := rfl
@[simp] theorem Block.clearAck_txlen (k : Block) : k.clearAck.txlen = k.txlen := rfl
@[simp] theorem Block.clearAck_rxbuf (k : Block) : k.clearAck.rxbuf = k.rxbuf := rfl
@[simp] theorem Block.clearAck_rxcnt (k : Block) : k.clearAck.rxcnt = k.rxcnt := rfl
@[simp] theorem Block.clearAck_ackPos (k : Block) : k.clearAck.ackPos = 0 := rfl
@[simp] theorem Block.clearAck_ackVolt (k : Block) : k.clearAck.ackVolt = 0 := rfl
@[simp] theorem Block.clearAck_ackTorq (k : Block) : k.clearAck.ackTorq = 0 := rfl
@[simp] theorem Block.clearAck_ackEngaged (k : Block) : k.clearAck.ackEngaged = false := rfl
@[simp] theorem Block.clearAck_ackSlipping (k : Block) : k.clearAck.ackSlipping = false := rfl
@[simp] theorem Block.clearAck_ackValarm (k : Block) : k.clearAck.ackValarm = false := rfl
@[simp] theorem Block.clearAck_ackRawflags (k : Block) : k.clearAck.ackRawflags = 0 := rfl
@[simp] theorem Block.clearAck_ackRawcnt (k : Block) : k.clearAck.ackRawcnt = k.ackRawcnt := rfl
@[simp] theorem Block.clearAck_ackValid (k : Block) : k.clearAck.ackValid = false := rfl
@[simp] theorem Block.clearAck_err (k : Block) : k.clearAck.err = k.err := rfl

/-! ## `State.onBlock` -/

@[simp] theorem State.onBlock_block (f : Block → Block) (s : State) : (s.onBlock f).block = f s.block := rfl
@[simp] theorem State.onBlock_started (f : Block → Block) (s : State) : (s.onBlock f).started = s.started := rfl
@[simp] theorem State.onBlock_pending (f : Block → Block) (s : State) : (s.onBlock f).pending = s.pending := rfl
@[simp] theorem State.onBlock_replies (f : Block → Block) (s : State) : (s.onBlock f).replies = s.replies := rfl

/-! ## `State.pop` -/

@[simp] theorem State.pop_block (s : State) : s.pop.block = s.block := rfl
@[simp] theorem State.pop_started (s : State) : s.pop.started = s.started := rfl
@[simp] theorem State.pop_pending (s : State) : s.pop.pending = s.pending.tail := rfl
@[simp] theorem State.pop_replies (s : State) : s.pop.replies = s.replies := rfl

/-! ## `State.answer` -/

@[simp] theorem State.answer_block (v : Word) (s : State) : (s.answer v).block = s.block := rfl
@[simp] theorem State.answer_started (v : Word) (s : State) : (s.answer v).started = s.started := rfl
@[simp] theorem State.answer_pending (v : Word) (s : State) : (s.answer v).pending = s.pending := rfl
@[simp] theorem State.answer_replies (v : Word) (s : State) : (s.answer v).replies = s.replies ++ [v] := rfl

/-! ## `State.takeReset` -/

@[simp] theorem State.takeReset_block (s : State) : s.takeReset.block = Block.reset Params.hw := rfl
@[simp] theorem State.takeReset_started (s : State) : s.takeReset.started = true := rfl
@[simp] theorem State.takeReset_pending (s : State) : s.takeReset.pending = s.pending := rfl
@[simp] theorem State.takeReset_replies (s : State) : s.takeReset.replies = s.replies := rfl

/-! ## `State.withFetchWord` -/

@[simp] theorem State.withFetchWord_block (nbits w : Nat) (s : State) : (s.withFetchWord nbits w).block = s.block := rfl
@[simp] theorem State.withFetchWord_started (nbits w : Nat) (s : State) : (s.withFetchWord nbits w).started = true := rfl
@[simp] theorem State.withFetchWord_pending (nbits w : Nat) (s : State) : (s.withFetchWord nbits w).pending = cmdWrite (tableWord nbits w) :: s.pending := rfl
@[simp] theorem State.withFetchWord_replies (nbits w : Nat) (s : State) : (s.withFetchWord nbits w).replies = s.replies := rfl

end Sys2Proof.Machine
end

