-- ==== Sys2Proof/Laws/Ops.lean ====
section
/-! SUPPORT. What each shared operation does, said once. -/

namespace Sys2Proof.Machine

/-! ## Byte sequences -/

@[simp] theorem byteAt_nil (i : Nat) : byteAt [] i = 0 := rfl

/-- Reading inside the sequence gives its element. -/
theorem byteAt_of_lt {s : List Byte} {i : Nat} (h : i < s.length) : byteAt s i = s[i] := by
  simp [byteAt, h]

/-- Beyond the sequence the model reads 0. -/
theorem byteAt_of_le {s : List Byte} {i : Nat} (h : s.length ≤ i) : byteAt s i = 0 := by
  simp [byteAt, h]

/-- Two buffers of one length with the same bytes are the same buffer. -/
theorem eq_of_byteAt_eq {s t : List Byte} (hl : s.length = t.length)
    (h : ∀ i, i < s.length → byteAt s i = byteAt t i) : s = t := by
  apply List.ext_getElem hl
  intro i h₁ h₂
  have := h i h₁
  rwa [byteAt_of_lt h₁, byteAt_of_lt h₂] at this

@[simp] theorem padTo_length (cap : Nat) (f : List Byte) : (padTo cap f).length = cap := by
  simp [padTo]

/-- R99's loop: the frame's byte below the capacity, and 0x00 after the frame. -/
theorem byteAt_padTo {cap i : Nat} (f : List Byte) (h : i < cap) : byteAt (padTo cap f) i = byteAt f i := by
  rw [byteAt_of_lt (by simpa using h)]
  simp [padTo]

/-- A sequence that fits in the buffer stands there whole, with zeros after it. -/
theorem padTo_eq_append {cap : Nat} {f : List Byte} (h : f.length ≤ cap) :
    padTo cap f = f ++ List.replicate (cap - f.length) 0 := by
  apply eq_of_byteAt_eq
  · simp; omega
  · intro i hi
    rw [byteAt_padTo f (by simpa using hi)]
    unfold byteAt
    by_cases hf : i < f.length
    · simp [hf, List.getElem?_append_left]
    · simp [List.getElem?_append_right (Nat.le_of_not_lt hf), List.getElem?_replicate, Nat.le_of_not_lt hf]
      split <;> rfl

/-- A write to one byte of a buffer changes that byte alone. -/
theorem byteAt_set {s : List Byte} {i j : Nat} (b : Byte) (h : i < s.length) :
    byteAt (s.set i b) j = if j = i then b else byteAt s j := by
  unfold byteAt
  rw [List.getD_eq_getElem?_getD, List.getD_eq_getElem?_getD, List.getElem?_set]
  by_cases hj : i = j
  · subst hj; simp [h]
  · simp [hj, Ne.symm hj]

/-! ## Commands -/

@[simp] theorem command_eq (f : Block → Block) (s : State) : command f s = .next (s.onBlock f) := rfl

/-- A command always completes, and what it does to the block is its rule at this hardware's parameters; the port
is as before. -/
theorem exec_eq (i : Instr) (s : State) : exec i s = .next (s.onBlock (runCommand Params.hw i)) := by
  cases i <;> rfl

/-- Every way a command can end: a next state with the port as before. -/
theorem exec_next {i : Instr} {s t : State} (h : exec i s = .next t) :
    t.block = runCommand Params.hw i s.block ∧ t.started = s.started ∧ t.pending = s.pending ∧
      t.replies = s.replies := by
  rw [exec_eq] at h
  cases h
  exact ⟨rfl, rfl, rfl, rfl⟩

/-- A sequence of commands, one at a time. -/
@[simp] theorem runCommands_nil (p : Params) (k : Block) : runCommands p [] k = k := rfl

@[simp] theorem runCommands_cons (p : Params) (i : Instr) (is : List Instr) (k : Block) :
    runCommands p (i :: is) k = runCommands p is (runCommand p i k) := rfl

/-- A sequence of commands in two parts. -/
theorem runCommands_append (p : Params) (is js : List Instr) (k : Block) :
    runCommands p (is ++ js) k = runCommands p js (runCommands p is k) := by
  simp [runCommands]

/-! ## The receive buffer -/

/-- `RXPUSH` has two cases: a full buffer drops the byte, any other stores it. -/
theorem rxpush_cases (p : Params) (a : Byte) (k : Block) :
    (k.rxcnt.toNat = p.rxCap ∧ k.rxpush p a = k.raise .rxOverflow) ∨
      (k.rxcnt.toNat ≠ p.rxCap ∧ k.rxpush p a = (k.storeRx a).ok) := by
  unfold Block.rxpush
  split
  · exact .inl ⟨‹_›, rfl⟩
  · exact .inr ⟨‹_›, rfl⟩

/-! ## The acknowledgement -/

/-- `DECACK` has four cases: truncated; verification off; verified; mismatch. -/
theorem decack_cases (p : Params) (k : Block) :
    (k.rxcnt.toNat < p.ackMin ∧ k.decack p = (k.setRawcnt k.rxcnt).rejectAck .truncatedFrame) ∨
      (p.ackMin ≤ k.rxcnt.toNat ∧ p.ackVerify = false ∧ k.decack p = (k.setRawcnt k.rxcnt).acceptAck p) ∨
      (p.ackMin ≤ k.rxcnt.toNat ∧ p.ackVerify = true ∧ verifyAck p k.rxbuf = true ∧
        k.decack p =
          ((k.setRawcnt k.rxcnt).setAcc (ackAdd p k.rxbuf) (ackXor p k.rxbuf)).acceptAck p) ∨
      (p.ackMin ≤ k.rxcnt.toNat ∧ p.ackVerify = true ∧ verifyAck p k.rxbuf = false ∧
        k.decack p =
          ((k.setRawcnt k.rxcnt).setAcc (ackAdd p k.rxbuf) (ackXor p k.rxbuf)).rejectAck .checksumMismatch) := by
  unfold Block.decack Block.verifyThenAccept
  by_cases hlen : k.rxcnt.toNat < p.ackMin
  · exact .inl ⟨hlen, by simp [hlen]⟩
  · have hle := Nat.le_of_not_lt hlen
    cases hv : p.ackVerify with
    | false => exact .inr (.inl ⟨hle, rfl, by simp [hlen]⟩)
    | true =>
      cases hok : verifyAck p k.rxbuf with
      | true =>
        refine .inr (.inr (.inl ⟨hle, rfl, rfl, ?_⟩))
        simp only [verifyAck, Bool.and_eq_true, beq_iff_eq] at hok
        simp [hlen, hok]
      | false =>
        refine .inr (.inr (.inr ⟨hle, rfl, rfl, ?_⟩))
        simp only [verifyAck, Bool.and_eq_false_iff, beq_eq_false_iff_ne] at hok
        simp [hlen, hok]

end Sys2Proof.Machine
end

