-- ==== Sys2Proof/Laws/PerInstr.lean ====
section
/-! SUPPORT. Per instruction: the word that spells it fits the row of spec/opcode_table.json with its mnemonic. -/

namespace Sys2Proof.Laws.EncodeFitsRow

/-- The encoded word fits a row of the table, and the row has the instruction's mnemonic. -/
def Statement (i : Instr) : Prop := ∃ r ∈ opcodeTable, r.mnemonic = i.mnemonic ∧ r.fits (encode i) = true

theorem nop : Statement .nop := ⟨⟨"NOP", 0x00000000, 0xFFFFFFFF⟩, by decide, rfl, by decide⟩

theorem ckseed (sa sx : Byte) : Statement (.ckseed sa sx) := by
  refine ⟨⟨"CKSEED", 0x00000001, 0xFF0000FF⟩, by decide, rfl, ?_⟩
  simp only [OpRow.fits, encode, beq_iff_eq]
  ext j hj
  simp
  interval_cases j <;> simp

/-- The shape the three one-byte commands share. -/
theorem fits_of_byte (b : Byte) (op : Byte) :
    ((b.setWidth 32 <<< 8) ||| op.setWidth 32) &&& 0xFFFF00FF#32 = op.setWidth 32 := by
  ext j hj
  simp
  interval_cases j <;> simp

theorem ckbyte (b : Byte) : Statement (.ckbyte b) :=
  ⟨⟨"CKBYTE", 0x00000002, 0xFFFF00FF⟩, by decide, rfl, by simpa [OpRow.fits, encode] using fits_of_byte b 0x02⟩

theorem encasn (n : Byte) : Statement (.encasn n) :=
  ⟨⟨"ENCASN", 0x00000010, 0xFFFF00FF⟩, by decide, rfl, by simpa [OpRow.fits, encode] using fits_of_byte n 0x10⟩

theorem encpoll : Statement .encpoll := ⟨⟨"ENCPOLL", 0x00000011, 0xFFFFFFFF⟩, by decide, rfl, by decide⟩

theorem encmove (p : Half) : Statement (.encmove p) := by
  refine ⟨⟨"ENCMOVE", 0x00000012, 0xFF0000FF⟩, by decide, rfl, ?_⟩
  simp only [OpRow.fits, encode, beq_iff_eq]
  ext j hj
  simp
  interval_cases j <;> simp

theorem rxclr : Statement .rxclr := ⟨⟨"RXCLR", 0x00000020, 0xFFFFFFFF⟩, by decide, rfl, by decide⟩

theorem rxpush (b : Byte) : Statement (.rxpush b) :=
  ⟨⟨"RXPUSH", 0x00000021, 0xFFFF00FF⟩, by decide, rfl, by simpa [OpRow.fits, encode] using fits_of_byte b 0x21⟩

theorem decack : Statement .decack := ⟨⟨"DECACK", 0x00000022, 0xFFFFFFFF⟩, by decide, rfl, by decide⟩

end Sys2Proof.Laws.EncodeFitsRow
end

