-- ==== Sys2Proof/Laws/Regs.lean ====
section
/-! SUPPORT. The register map, one lemma per kind of offset (10_state.md R35), and the packed registers as numbers. -/

namespace Sys2Proof.Machine

/-- Above the scalar registers only the two windows are mapped. -/
theorem regAt_of_window {off : Nat} (h : 0x02C ≤ off) (p : Params) :
    regAt p off =
      match windowIndex 0x100 p.txCap off with
      | some i => some (.txbuf i)
      | none => (windowIndex 0x200 p.rxCap off).map .rxbuf := by
  unfold regAt
  repeat rw [if_neg (by omega)]
  all_goals rfl

theorem windowIndex_of_lt {base cap i : Nat} (h : i < cap) : windowIndex base cap (base + 4 * i) = some i := by
  unfold windowIndex
  rw [if_pos (by omega)]
  congr 1
  omega

theorem windowIndex_none {base cap off : Nat} (h : off < base ∨ base + 4 * cap ≤ off) :
    windowIndex base cap off = none := by
  unfold windowIndex
  rw [if_neg (by omega)]

/-- The `TXBUF` window (R47). -/
theorem regAt_txbuf {i : Nat} (h : i < 32) : regAt Params.hw (0x100 + 4 * i) = some (.txbuf i) := by
  rw [regAt_of_window (by omega), windowIndex_of_lt (cap := Params.hw.txCap) h]

/-- The `RXBUF` window (R48). -/
theorem regAt_rxbuf {i : Nat} (h : i < 16) : regAt Params.hw (0x200 + 4 * i) = some (.rxbuf i) := by
  rw [regAt_of_window (by omega), windowIndex_none (cap := Params.hw.txCap) (by rw [Params.hw_txCap]; omega),
    windowIndex_of_lt (cap := Params.hw.rxCap) h]
  rfl

/-- The unmapped offsets (20_memory.md R52). -/
theorem regAt_unmapped {off : Nat}
    (h : (0x02C ≤ off ∧ off < 0x100) ∨ (0x180 ≤ off ∧ off < 0x200) ∨ 0x240 ≤ off) :
    regAt Params.hw off = none := by
  rw [regAt_of_window (by omega), windowIndex_none (cap := Params.hw.txCap) (by rw [Params.hw_txCap]; omega),
    windowIndex_none (cap := Params.hw.rxCap) (by rw [Params.hw_rxCap]; omega)]
  rfl

/-- A bool above `k` low bits adds `2 ^ k` when it is true. -/
theorem ofBool_append_toNat {k : Nat} (c : Bool) (x : BitVec k) :
    (BitVec.ofBool c ++ x).toNat = c.toNat * 2 ^ k + x.toNat := by
  rw [BitVec.toNat_append, ← Nat.shiftLeft_add_eq_or_of_lt x.isLt, Nat.shiftLeft_eq, BitVec.toNat_ofBool]

/-- Any field above `k` low bits. -/
theorem append_toNat {m k : Nat} (y : BitVec m) (x : BitVec k) : (y ++ x).toNat = y.toNat * 2 ^ k + x.toNat := by
  rw [BitVec.toNat_append, ← Nat.shiftLeft_add_eq_or_of_lt x.isLt, Nat.shiftLeft_eq]

/-- `STATUS` as a number (R37). -/
theorem statusWord_toNat (k : Block) : k.statusWord.toNat = k.err.toNat + 16 * k.ackValid.toNat := by
  change ((0#27 ++ BitVec.ofBool k.ackValid) ++ k.err).toNat = _
  rw [append_toNat, append_toNat, BitVec.toNat_ofBool]
  simp
  omega

/-- `ACKFLAGS` as a number (R45). -/
theorem ackFlagsWord_toNat (k : Block) :
    k.ackFlagsWord.toNat = k.ackEngaged.toNat + 2 * k.ackSlipping.toNat + 4 * k.ackValarm.toNat
      + 256 * k.ackRawflags.toNat := by
  change (((((0#16 ++ k.ackRawflags) ++ 0#5) ++ BitVec.ofBool k.ackValarm) ++ BitVec.ofBool k.ackSlipping)
    ++ BitVec.ofBool k.ackEngaged).toNat = _
  simp only [append_toNat, BitVec.toNat_ofBool]
  simp
  omega

end Sys2Proof.Machine
end

