-- ==== Sys2Proof/Laws/Step.lean ====
section
/-! SUPPORT. What a step can do, said once (43_system.md R122). -/

namespace Sys2Proof.Machine

/-- With no transaction waiting the state is held. -/
theorem step_idle {s : State} (h : s.pending = []) : step s = .next s := by
  simp [step, h, idle]

/-- Otherwise the first transaction is taken. -/
theorem step_take {s : State} {t : Transaction} {rest : List Transaction} (h : s.pending = t :: rest) :
    step s = take t s.pop := by
  simp [step, h]

/-- An admitted access is not refused. -/
theorem accessRefusal_none {off : Nat} (ha : off % 4 = 0) (hw : off ≤ 0x3FC) : accessRefusal 4 off = none := by
  simp [accessRefusal, ha, lastOffset, Nat.not_lt.mpr hw]

/-- An access outside the contract is refused. -/
theorem accessRefusal_some {width off : Nat} (h : ¬(width = 4 ∧ off % 4 = 0 ∧ off ≤ 0x3FC)) :
    ∃ why, accessRefusal width off = some why := by
  unfold accessRefusal lastOffset
  split
  · exact ⟨_, rfl⟩
  · split
    · exact ⟨_, rfl⟩
    · split
      · exact ⟨_, rfl⟩
      · exact absurd ⟨by omega, by omega, by omega⟩ h

/-- `CMD` is the one writable register, and it stands at offset 0. -/
theorem writeAt_of_ne_zero {off : Nat} (h : off ≠ 0) (v : Word) (s : State) : writeAt off v s = .next s := by
  unfold writeAt
  split
  · rename_i r hr
    have hne : r ≠ .cmd := by
      rintro rfl
      simp only [regAt, h, if_false] at hr
      repeat' split at hr
      all_goals simp_all
    cases r <;> first | exact absurd rfl hne | rfl
  · rfl

theorem writeAt_zero (v : Word) (s : State) : writeAt 0 v s = writeCmd v s := rfl

/-- A write of a word that decodes to a command runs the command. -/
theorem writeCmd_command {v : Word} {i : Instr} (h : decode v = .command i) (s : State) : writeCmd v s = exec i s := by
  simp [writeCmd, h]

/-- A write of an illegal word only raises `IllegalCommand`. -/
theorem writeCmd_illegal {v : Word} {why : IllegalWord} (h : decode v = .illegal why) (s : State) :
    writeCmd v s = .next (s.onBlock fun k => k.setErr 3) := by
  simp only [writeCmd, h]
  rfl

/-- Everything a write to `CMD` can do. -/
theorem writeCmd_cases (v : Word) (s : State) :
    (∃ i, decode v = .command i ∧ writeCmd v s = .next (s.onBlock (runCommand Params.hw i))) ∨
      (∃ why, decode v = .illegal why ∧ writeCmd v s = .next (s.onBlock fun k => k.setErr 3)) := by
  cases h : decode v with
  | command i => exact .inl ⟨i, rfl, by rw [writeCmd_command h, exec_eq]⟩
  | illegal why => exact .inr ⟨why, rfl, writeCmd_illegal h s⟩

/-- The step on a read the contract admits. -/
theorem step_read {s : State} {off : Nat} {rest : List Transaction} (hs : s.started = true)
    (hp : s.pending = .read 4 off :: rest) (ha : off % 4 = 0) (hw : off ≤ 0x3FC) :
    step s = .next (s.pop.answer (s.block.readAt Params.hw off)) := by
  simp [step_take hp, take, hs, access, accessRefusal_none ha hw, readAt]

/-- The step on a write the contract admits. -/
theorem step_write {s : State} {off : Nat} {v : Word} {rest : List Transaction} (hs : s.started = true)
    (hp : s.pending = .write 4 off v :: rest) (ha : off % 4 = 0) (hw : off ≤ 0x3FC) :
    step s = writeAt off v s.pop := by
  simp [step_take hp, take, hs, access, accessRefusal_none ha hw]

/-- The step on a command word. -/
theorem step_command {s : State} {w : Word} {i : Instr} {rest : List Transaction} (hs : s.started = true)
    (hp : s.pending = cmdWrite w :: rest) (hd : decode w = .command i) :
    step s = .next (s.pop.onBlock (runCommand Params.hw i)) := by
  rw [step_write hs hp rfl (by decide), writeAt_zero, writeCmd_command hd, exec_eq]

/-- The step on a reset, from any state. -/
theorem step_reset {s : State} {rest : List Transaction} (hp : s.pending = .reset :: rest) :
    step s = .next s.pop.takeReset := by
  simp [step_take hp, take]

/-- Everything a step that goes on can have done to the block: hold it, run one command, raise `IllegalCommand`, or
reset it. -/
theorem step_next_block {s t : State} (h : step s = .next t) :
    t.block = s.block ∨ (∃ i, t.block = runCommand Params.hw i s.block) ∨ t.block = s.block.setErr 3 ∨
      t.block = Block.reset Params.hw := by
  cases hp : s.pending with
  | nil => rw [step_idle hp] at h; cases h; exact .inl rfl
  | cons x rest =>
    rw [step_take hp] at h
    cases x with
    | reset => cases h; exact .inr (.inr (.inr rfl))
    | read width off =>
      simp only [take, access] at h
      split at h
      · split at h
        · cases h
        · cases h; exact .inl rfl
      · cases h
    | write width off v =>
      simp only [take, access] at h
      split at h
      · split at h
        · cases h
        · by_cases h0 : off = 0
          · subst h0
            rw [writeAt_zero] at h
            obtain ⟨i, -, hw⟩ | ⟨why, -, hw⟩ := writeCmd_cases v s.pop
            · rw [hw] at h; cases h; exact .inr (.inl ⟨i, rfl⟩)
            · rw [hw] at h; cases h; exact .inr (.inr (.inl rfl))
          · rw [writeAt_of_ne_zero h0] at h; cases h; exact .inl rfl
      · cases h

/-- The state that `withFetchWord` makes runs the word's command as its very next step, and leaves the rest of the
port as it was. -/
theorem step_withFetchWord {s : State} {nbits w : Nat} {i : Instr} (hd : decode (tableWord nbits w) = .command i) :
    step (s.withFetchWord nbits w) = exec i { s with started := true } := by
  rw [step_command (rest := s.pending) (by simp) (by simp) hd, exec_eq]
  rfl

/-! ## Runs -/

@[simp] theorem run_zero (s : State) : run 0 s = .next s := rfl

/-- A run whose first step goes on. -/
theorem run_succ_of_next {s t : State} (n : Nat) (h : step s = .next t) : run (n + 1) s = run n t := by
  have h' : core.step s = .next t := h
  simp only [run, Host.Core.run, h']
  rfl

/-- A run whose first step is refused. -/
theorem run_succ_of_refused {s : State} {why : Refusal} (n : Nat) (h : step s = .refused why) :
    run (n + 1) s = .refused why := by
  have h' : core.step s = .refused why := h
  simp only [run, Host.Core.run, h']
  rfl

/-- A run in two parts. -/
theorem run_add_of_next {s t : State} (m n : Nat) (h : run m s = .next t) : run (m + n) s = run n t := by
  induction m generalizing s with
  | zero => cases h; simp
  | succ m ih =>
    rw [Nat.succ_add]
    cases hs : step s with
    | next u => rw [run_succ_of_next _ hs] at h ⊢; exact ih h
    | refused why => rw [run_succ_of_refused _ hs] at h; cases h
    | fault why => cases why

/-- A run over the words of commands, each of which decodes to its command, runs their rules in order and leaves
the rest waiting. -/
theorem run_commandWrites {is : List Instr} {rest : List Transaction} {s : State} (hs : s.started = true)
    (hd : ∀ i ∈ is, decode (encode i) = .command i) (hp : s.pending = commandWrites is ++ rest) :
    run is.length s = .next { s with pending := rest, block := runCommands Params.hw is s.block } := by
  induction is generalizing s with
  | nil => cases s; simp_all [commandWrites]
  | cons i is ih =>
    have hp' : s.pending = cmdWrite (encode i) :: (commandWrites is ++ rest) := by simpa [commandWrites] using hp
    have hstep := step_command hs hp' (hd i (by simp))
    rw [List.length_cons, run_succ_of_next _ hstep]
    rw [ih (by simpa using hs) (fun j hj => hd j (by simp [hj])) (by simp [hp'])]
    rfl

end Sys2Proof.Machine
end

