-- ==== Sys2Proof/Tests/Slice0.lean ====
section
/-! SUPPORT. The model's own tests: words written out from the spec's encodings, ill-formed terms for each check, one
step of each command with the values of 95_test_vectors.md, and a witness for the hypotheses of each statement. -/

namespace Sys2Proof.Tests

open Sys2Proof.Machine

/-! ## Helpers -/

/-- The block of a next state. -/
def blockOf : Host.Outcome State Fault Refusal → Option Block
  | .next s => some s.block
  | .fault _ => none
  | .refused _ => none

/-- The values given back to the host in a next state. -/
def repliesOf : Host.Outcome State Fault Refusal → Option (List Word)
  | .next s => some s.replies
  | .fault _ => none
  | .refused _ => none

/-- The name of a refusal. -/
def refusalOf : Host.Outcome State Fault Refusal → Option Refusal
  | .next _ => none
  | .fault _ => none
  | .refused r => some r

/-- The block after one step on a command word, from a block. -/
def after (k : Block) (w : Word) : Option Block :=
  blockOf (step { State.reset with block := k, pending := [cmdWrite w] })

/-- The reset block with these bytes received. -/
def received (bs : List Byte) : Block :=
  { Block.reset Params.hw with rxbuf := padTo 16 bs, rxcnt := BitVec.ofNat 8 bs.length }

/-- The launch state with these transactions at the port. -/
def waiting (ts : List Transaction) : State := { State.reset with pending := ts }

/-- The acknowledgement of 95_test_vectors.md L1.8. -/
def sampleAck : List Byte := [0x00, 0x00, 0x00, 0x00, 0x00, 0x01, 0xB0, 0x04, 0x78, 0x1E]

/-- Verifying parameters: the checksums cover offsets 0 to 9 and stand at offsets 10 and 11. -/
def verifying : Params :=
  { Params.hw with ackVerify := true, ackCkFirst := 0, ackCkLast := 9, ackAddAt := 10, ackXorAt := 11,
                   ackSeedAdd := 0xAA, ackSeedXor := 0x55 }

/-! ## Decoding: words of R68's fields, R72's opcodes, R77's table (95_test_vectors.md L2.1) -/

theorem test_decode_nop : decode 0b00000000_00000000_00000000_00000000 = .command .nop := by decide
theorem test_decode_ckseed : decode 0b00000000_01010101_10101010_00000001 = .command (.ckseed 0xAA 0x55) := by decide
theorem test_decode_ckbyte : decode 0b00000000_00000000_11111110_00000010 = .command (.ckbyte 0xFE) := by decide
theorem test_decode_encasn : decode 0b00000000_00000000_00000001_00010000 = .command (.encasn 1) := by decide
theorem test_decode_encpoll : decode 0b00000000_00000000_00000000_00010001 = .command .encpoll := by decide
theorem test_decode_encmove : decode 0b00000000_00000100_10110000_00010010 = .command (.encmove 1200) := by decide
theorem test_decode_rxclr : decode 0b00000000_00000000_00000000_00100000 = .command .rxclr := by decide
theorem test_decode_rxpush : decode 0b00000000_00000000_11010101_00100001 = .command (.rxpush 0xD5) := by decide
theorem test_decode_decack : decode 0b00000000_00000000_00000000_00100010 = .command .decack := by decide

theorem test_encode_ckseed : encode (.ckseed 0xAA 0x55) = 0x0055AA01 := by decide
theorem test_encode_encmove : encode (.encmove 1200) = 0x0004B012 := by decide

theorem test_decodeTableWord : decodeTableWord 32 0x0004B012 = some (.encmove 1200) := by decide
theorem test_decodeTableWord_illegal : decodeTableWord 32 0x01000022 = none := by decide

/-! ## Ill-formed words, one per check of R74 (95_test_vectors.md L2.1) -/

theorem test_illformed_reserved : wordWellFormed 0xFF000012 = false ∧ rsvClear 0xFF000012 = false ∧
    decode 0xFF000012 = .illegal .reservedField := by decide
theorem test_illformed_opcode : wordWellFormed 0x00000013 = false ∧ opcodeAssigned 0x00000013 = false ∧
    decode 0x00000013 = .illegal .unassignedOpcode := by decide
theorem test_illformed_format_n : wordWellFormed 0x00000122 = false ∧ unusedClear 0x00000122 = false ∧
    decode 0x00000122 = .illegal .unusedField := by decide
theorem test_illformed_format_n_upper : wordWellFormed 0x00010011 = false ∧
    decode 0x00010011 = .illegal .unusedField := by decide
theorem test_illformed_format_a : wordWellFormed 0x00FF0021 = false ∧ unusedClear 0x00FF0021 = false ∧
    decode 0x00FF0021 = .illegal .unusedField := by decide
theorem test_illformed_immediate : (AsmLine.ckbyte 256).expand = .error (.outOfRange 256) ∧
    (AsmLine.encmove 65536).expand = .error (.outOfRange 65536) := by decide
theorem test_illegal_params : ¬({ Params.hw with lenAdj := 1 } : Params).Legal := fun h => by
  have := h.lenAdj
  revert this
  decide

/-! ## One step of each command -/

theorem test_nop_clears_err : (after { received [] with err := 1, ackValid := true } 0x00000000).map (·.statusWord)
    = some 0x00000010 := by decide
theorem test_ckseed_order : (after (received []) 0x00347F01).map (fun k => (k.accAdd, k.accXor))
    = some (0x7F, 0x34) := by decide
theorem test_ckbyte_wraps : (after (received []) 0x0000FE02).map (fun k => (k.accAdd, k.accXor))
    = some (0xA8, 0xAB) := by decide
theorem test_encasn_frame : (after (received []) 0x00000110).map (·.txbuf.take 12)
    = some [0xD5, 0x82, 0x06, 0x00, 0x00, 0xAA, 0x55, 0x01, 0xFE, 0xA8, 0x55, 0x00] := by decide
theorem test_encpoll_frame : (after (received []) 0x00000011).map (fun k => (k.txlen, k.accAdd, k.accXor))
    = some (20, 0xAC, 0x55) := by decide
theorem test_encmove_frame : (after (received []) 0x0004B012).map (·.txbuf.take 21)
    = some [0xD5, 0x82, 0x0F, 0x01, 0x00, 0x01, 0x01, 0xB0, 0x04, 0, 0, 0, 0, 0, 0, 0, 0, 0, 0x61, 0xE0, 0] := by
  decide
theorem test_encmove_high_bit : (after (received []) 0x00800012).map (fun k => (k.accAdd, k.accXor))
    = some (0x2D, 0xD4) := by decide
theorem test_rxclr_keeps_status : (after { received sampleAck with ackPos := 7 } 0x00000020).map
    (fun k => (k.rxcnt, byteAt k.rxbuf 6, k.ackPos)) = some (0, 0, 7) := by decide
theorem test_rxpush_sixteenth : (after (received (List.replicate 15 1)) 0x00007721).map
    (fun k => (k.rxcnt, byteAt k.rxbuf 15, k.err)) = some (16, 0x77, 0) := by decide
theorem test_rxpush_seventeenth : (after (received (List.replicate 16 1)) 0x00007721).map
    (fun k => (k.rxcnt, byteAt k.rxbuf 15, k.err)) = some (16, 1, 4) := by decide
theorem test_decack_sample : (after (received sampleAck) 0x00000022).map
    (fun k => (k.ackPos, k.ackVolt, k.ackTorq, k.ackFlagsWord, k.statusWord)) =
      some (1200, 120, 30, 0x00000105, 0x00000010) := by decide
theorem test_decack_nine_bytes : (after (received (sampleAck.take 9)) 0x00000022).map
    (fun k => (k.ackPos, k.ackRawcnt, k.statusWord)) = some (0, 9, 0x00000001) := by decide
theorem test_illegal_word : (after { received [] with ackValid := true } 0x01000022).map (·.statusWord)
    = some 0x00000013 := by decide

/-! ## The port (95_test_vectors.md L2.5) -/

theorem test_read_unmapped : repliesOf (step (waiting [.read 4 0x180])) = some [0] := by decide
theorem test_read_ckadd : repliesOf (step (waiting [.read 4 0x008])) = some [0xAA] := by decide
theorem test_write_ckadd_ignored : blockOf (step (waiting [.write 4 0x008 0x12345678])) = some State.reset.block := by
  decide
theorem test_refuse_half_word : refusalOf (step (waiting [.read 2 0x004])) = some (.accessWidth 2) := by decide
theorem test_refuse_misaligned : refusalOf (step (waiting [.read 4 0x002])) = some (.misalignedOffset 2) := by decide
theorem test_refuse_outside : refusalOf (step (waiting [.read 4 0x400])) = some (.outsideWindow 0x400) := by decide
theorem test_fetch_word : blockOf (step (State.reset.withFetchWord 32 0x0000D521)) =
    some { State.reset.block with rxbuf := 0xD5 :: List.replicate 15 0, rxcnt := 1 } := by decide

/-! ## The assembler (R77, R78) -/

theorem test_asm_line : assembleLine "encmove 0x04B0 ; the scenario of L1.8".toList = .ok [0x0004B012] := by decide
theorem test_asm_pseudo : assembleLine "rxload 0xD5, 130".toList = .ok [0x00000020, 0x0000D521, 0x00008221] := by
  decide

/-! ## Witnesses: a state and operands that meet the hypotheses of each statement -/

theorem witness_EncodeOfDecodeIsTheWord : decode 0x00000110 = .command (.encasn 1) := by decide

theorem witness_DecodeFollowsTheOpcodeTable : ∃ r ∈ opcodeTable, r.fits 0x00000110 = true := by decide

theorem witness_OpcodeTableRowsAreDisjoint :
    ∃ r ∈ opcodeTable, ∃ r' ∈ opcodeTable, r.fits 0x0055AA01 = true ∧ r'.fits 0x0055AA01 = true := by decide

theorem witness_StepRunsTheDecodedCommand : ∃ s : State, s.started = true ∧
    s.pending = .write 4 0x000 0x0000FE02 :: [] ∧ decode 0x0000FE02 = .command (.ckbyte 0xFE) :=
  ⟨waiting [.write 4 0x000 0x0000FE02], by decide, rfl, by decide⟩

theorem witness_IllegalWordRaisesAndChangesNothingElse : ∃ s u : State,
    (s.started = true ∧ s.pending = .write 4 0x000 0x01000022 :: [] ∧ IllegalByR74 0x01000022) ∧
    (u.started = true ∧ u.pending = .write 4 0x000 0x00FFFF12 :: [] ∧ ¬IllegalByR74 0x00FFFF12) :=
  ⟨waiting [.write 4 0x000 0x01000022], waiting [.write 4 0x000 0x00FFFF12],
    ⟨by decide, rfl, by unfold IllegalByR74; decide⟩, by decide, rfl, by unfold IllegalByR74; decide⟩

theorem witness_ReadsHaveNoSideEffects : ∃ s : State, s.started = true ∧
    s.pending = List.replicate 2 (.read 4 0x3FC) ++ [] ∧ 0x3FC % 4 = 0 ∧ 0x3FC ≤ 0x3FC :=
  ⟨waiting (List.replicate 2 (.read 4 0x3FC)), by decide, rfl, by decide, by decide⟩

/-- Both ends of each unmapped range. -/
theorem witness_UnmappedOffsets : ∀ off ∈ [0x02C, 0x0FC, 0x180, 0x1FC, 0x240, 0x3FC],
    off % 4 = 0 ∧ UnmappedByR52 off ∧ (waiting [.read 4 off]).started = true ∧
      (waiting [.read 4 off]).pending = .read 4 off :: [] ∧ (waiting [.write 4 off 1]).pending = .write 4 off 1 :: [] := by
  unfold UnmappedByR52
  decide

theorem witness_OnlyCmdTakesWrites : ∀ off ∈ [0x000, 0x004, 0x3FC], off % 4 = 0 ∧ off ≤ 0x3FC ∧
    (waiting [.write 4 off 1]).started = true ∧ (waiting [.write 4 off 1]).pending = .write 4 off 1 :: [] := by decide

theorem witness_RunWithAnAccessOutsideTheContract : ∃ (s : State) (t : Transaction), s.started = true ∧
    s.pending = [.read 4 0] ++ t :: [] ∧ (∀ u ∈ [Transaction.read 4 0], u.Accepted) ∧ ¬t.Accepted ∧
      [Transaction.read 4 0].length < 2 :=
  ⟨waiting [.read 4 0, .write 2 0 0], .write 2 0 0, by decide, rfl,
    by intro u hu; rw [List.mem_singleton] at hu; subst hu; exact ⟨rfl, rfl, by decide⟩,
    fun h => absurd h.1 (by decide), by decide⟩

theorem witness_NothingButResetBeforeTheFirstReset : ∃ s : State, s.started = false ∧
    s.pending = .read 4 0 :: [] ∧ Transaction.read 4 0 ≠ .reset :=
  ⟨{ waiting [.read 4 0] with started := false }, rfl, rfl, by decide⟩

theorem witness_ResetSetsEveryElement : ∃ s : State, s.started = false ∧ s.pending = .reset :: [] :=
  ⟨{ waiting [.reset] with started := false }, rfl, rfl⟩

theorem witness_AdmittedTransactionsAreAllTaken : ∃ s : State, s.started = true ∧ s.pending.length = 2 ∧
    ∀ t ∈ s.pending, t.Accepted :=
  ⟨waiting [.reset, .write 4 0x3FC 0], by decide, rfl, by
    intro t ht
    rcases List.mem_cons.mp ht with rfl | h
    · exact trivial
    · rw [List.mem_singleton] at h; subst h; exact ⟨rfl, rfl, by decide⟩⟩

theorem witness_WindowAddresses : ∃ p : Params, 0x3FF < 0x400 ∧ 0x400 ≤ 0x400 ∧ 0xFFF < p.regBase :=
  ⟨{ Params.hw with regBase := 0x1000 }, by decide, by decide, by decide⟩

theorem witness_RxpushStoresOrOverflows : ∃ s u : State,
    (s.block.rxbuf.length = 16 ∧ s.block.rxcnt.toNat < 16 ∧ s.block.rxcnt = 15) ∧
    (u.block.rxbuf.length = 16 ∧ u.block.rxcnt.toNat = 16) :=
  ⟨{ State.reset with block := received (List.replicate 15 1) },
    { State.reset with block := received (List.replicate 16 1) }, by decide, by decide⟩

theorem witness_DecackRejectsATruncatedFrame : ∃ s : State, s.block.rxcnt.toNat < 10 ∧ s.block.rxcnt = 9 :=
  ⟨{ State.reset with block := received (sampleAck.take 9) }, by decide⟩

theorem witness_DecackDecodesTheFields : ∃ s : State, 10 ≤ s.block.rxcnt.toNat ∧ s.block.rxcnt = 10 :=
  ⟨{ State.reset with block := received sampleAck }, by decide⟩

theorem witness_ErrIsNotSticky : ∃ s : State, s.started = true ∧ s.pending = .read 4 0 :: [] ∧
    (Transaction.read 4 0).Accepted ∧ Transaction.read 4 0 ≠ .reset ∧ ∀ v, Transaction.read 4 0 ≠ .write 4 0 v :=
  ⟨waiting [.read 4 0], by decide, rfl, ⟨rfl, rfl, by decide⟩, by decide, fun _ h => by cases h⟩

theorem witness_EachElementHasItsWriters : ∃ t, exec .nop State.reset = .next t := ⟨_, rfl⟩

theorem witness_ResultsDependOnTheirInputsAlone : ∃ s s' : State, s ≠ s' ∧
    s.block.rxbuf = s'.block.rxbuf ∧ s.block.rxcnt = s'.block.rxcnt :=
  ⟨State.reset, { State.reset with block := { State.reset.block with accAdd := 0 } }, by decide, rfl, rfl⟩

theorem witness_ChecksumClosedForms : ∃ (bs cs : List Byte) (x : Byte), bs ≠ cs ∧ bs.Perm cs ∧ x ≠ 0 :=
  ⟨[1, 2], [2, 1], 0xFF, by decide, .swap _ _ _, by decide⟩

theorem witness_StreamingComputesTheChecksums : ∃ s : State, s.started = true ∧
    s.pending = commandWrites (.ckseed 1 2 :: [(3 : Byte), 4].map .ckbyte) ++ [] :=
  ⟨waiting (commandWrites (.ckseed 1 2 :: [(3 : Byte), 4].map .ckbyte)), by decide, rfl⟩

/-- An acknowledgement of 16 bytes, and one pushed beyond the capacity. -/
theorem witness_ReceiveBufferHoldsTheFirstSixteen : ∀ n ∈ [16, 17], ∃ (s : State) (bs : List Byte),
    bs.length = n ∧ s.started = true ∧ s.pending = commandWrites (rxloadCommands bs) ++ [] :=
  fun n _ => ⟨waiting (commandWrites (rxloadCommands (List.replicate n 1))), List.replicate n 1,
    List.length_replicate, rfl, by simp [waiting]⟩

theorem witness_ReceivedPositionRoundTrips : ∃ s : State, 10 ≤ sampleAck.length ∧
    sampleAck[6]? = some (BitVec.ofNat 8 ((1200 : Half).toNat % 256)) ∧
    sampleAck[7]? = some (BitVec.ofNat 8 ((1200 : Half).toNat / 256)) ∧
    s.started = true ∧ s.pending = commandWrites (receiveExchange sampleAck) ++ [] :=
  ⟨waiting (commandWrites (receiveExchange sampleAck)), by decide, by decide, by decide, by decide, rfl⟩

theorem witness_ShortReplyIsReported : ∃ s : State, (sampleAck.take 9).length < 10 ∧ s.started = true ∧
    s.pending = commandWrites (receiveExchange (sampleAck.take 9)) ++ [] :=
  ⟨waiting (commandWrites (receiveExchange (sampleAck.take 9))), by decide, by decide, rfl⟩

/-- The block with the sample acknowledgement received meets the invariants. -/
theorem received_inv : (received sampleAck).Inv Params.hw where
  txSize := by decide
  rxSize := by decide
  rxCount := by decide
  rxTail := by decide
  txLength := by decide
  txTail := by decide
  ackCleared := by decide
  errLegal := by decide

theorem witness_WithoutRxclrTheOldFieldsAreDecoded : ∃ s u : State, s.started = true ∧ s.block.Inv Params.hw ∧
    10 ≤ s.block.rxcnt.toNat ∧ s.pending = commandWrites ([(7 : Byte)].map .rxpush ++ [.decack]) ++ [] ∧
    exec .decack s = .next u :=
  ⟨{ waiting (commandWrites ([(7 : Byte)].map .rxpush ++ [.decack])) with block := received sampleAck }, _,
    by decide, received_inv, by decide, rfl, rfl⟩

/-- The four cases of `DECACK`: truncated; verification off; verified; mismatch. -/
theorem witness_DecackAtAnyParameters :
    (received []).rxcnt.toNat < verifying.ackMin ∧
    (Params.hw.ackMin ≤ (received sampleAck).rxcnt.toNat ∧ Params.hw.ackVerify = false) ∧
    (verifying.ackMin ≤ (received (sampleAck ++ [0xF5, 0x86])).rxcnt.toNat ∧ verifying.ackVerify = true ∧
      verifyAck verifying (received (sampleAck ++ [0xF5, 0x86])).rxbuf = true) ∧
    (verifying.ackMin ≤ (received (sampleAck ++ [0xF5, 0x87])).rxcnt.toNat ∧
      verifyAck verifying (received (sampleAck ++ [0xF5, 0x87])).rxbuf = false) := by decide

/-- The verifying parameters are legal. -/
theorem verifying_legal : verifying.Legal where
  ackLen := by decide
  rxCap := by decide
  txCap := by decide
  lenAdj := by decide
  ackCkFirst := by decide
  ackCkLast := by decide
  ackAddAt := by decide
  ackXorAt := by decide
  ackMin := by decide

/-- A status and an error of the pure decoder, at legal parameters, on blocks that meet the invariants. -/
theorem witness_DecackIsThePureDecoder : Params.hw.Legal ∧ (received sampleAck).Inv Params.hw ∧
    (∃ st, decodeAck Params.hw ((received sampleAck).rxbuf.take (received sampleAck).rxcnt.toNat) = .ok st) ∧
    (Block.reset Params.hw).rxcnt = 0 ∧
    (∃ e, decodeAck Params.hw ((Block.reset Params.hw).rxbuf.take 0) = .error e) :=
  ⟨Params.hw_legal, received_inv, ⟨_, rfl⟩, rfl, ⟨_, rfl⟩⟩

theorem witness_LengthByteAtAnyParameters : ∃ p : Params, p.Legal ∧ p.lenAdj = 2 :=
  ⟨{ verifying with lenAdj := 2 }, { verifying_legal with lenAdj := by decide, ackMin := by decide }, rfl⟩

theorem witness_CommandsKeepTheInvariants : verifying.Legal ∧ (received sampleAck).Inv verifying :=
  ⟨verifying_legal, { received_inv with rxSize := by decide }⟩

theorem witness_StepKeepsTheInvariants : ∃ s t : State, s.block.Inv Params.hw ∧ step s = .next t ∧ s.block ≠ t.block :=
  ⟨{ waiting [cmdWrite 0x00000022] with block := received sampleAck }, _, received_inv, rfl, by decide⟩

theorem witness_StepKeepsTheFlagsAgreeing : ∃ s t : State, s.block.FlagsAgree Params.hw ∧ step s = .next t ∧
    s.block ≠ t.block :=
  ⟨{ waiting [cmdWrite 0x00000022] with block := received sampleAck }, _, by unfold Block.FlagsAgree; decide, rfl,
    by decide⟩

theorem witness_ReadersDoNotDisturbTheBlock : ∃ (s : State) (a b l : List Transaction), s.started = true ∧
    Interleaving a b l ∧ (∀ t ∈ a, t.Accepted) ∧ (∀ t ∈ b, t.IsRead) ∧ a.length = 1 ∧ b.length = 1 :=
  ⟨State.reset, [cmdWrite 0x00000011], [.read 4 0x004], [.read 4 0x004, cmdWrite 0x00000011], rfl,
    .right _ (.left _ .done),
    by intro t ht; rw [List.mem_singleton] at ht; subst ht; exact ⟨rfl, rfl, by decide⟩,
    by intro t ht; rw [List.mem_singleton] at ht; subst ht; exact ⟨rfl, rfl, by decide⟩, rfl, rfl⟩

theorem witness_FrameReadsDeliverTheBuffer : ∃ s : State, 32 ≤ 32 ∧ s.started = true ∧ s.block.txbuf.length = 32 ∧
    s.pending = frameReads 32 ++ [] :=
  ⟨waiting (frameReads 32), by decide, by decide, by decide, by simp [waiting]⟩

/-- A reply of 10 bytes and one of 16. -/
theorem witness_FullExchangeDeliversFrameAndStatus : ∀ n ∈ [10, 16], ∃ (s : State) (bs : List Byte),
    bs.length = n ∧ 10 ≤ bs.length ∧ bs.length ≤ 16 ∧ s.started = true ∧
    s.pending = commandWrites [.rxclr, .encmove 1200] ++ frameReads 20
      ++ commandWrites (bs.map .rxpush ++ [.decack]) ++ statusReads ++ [] := by
  intro n hn
  refine ⟨waiting _, List.replicate n 1, List.length_replicate, ?_, ?_, rfl, rfl⟩ <;>
    simp only [List.mem_cons, List.not_mem_nil, or_false] at hn <;> rcases hn with rfl | rfl <;> decide

theorem witness_AssemblerSpellsTheTableOfWords :
    (255 ≤ 255 ∧ 65535 ≤ 65535) ∧ 255 < 256 ∧ 65535 < 65536 := by decide

theorem witness_PseudoInstructions : ∃ (s u : State) (bs : List Byte), bs ≠ [] ∧ bs.length ≤ 16 ∧ bs.length = 16 ∧
    s.started = true ∧ s.pending = commandWrites (.ckseed 0xAA 0x55 :: bs.map .ckbyte) ∧
    u.started = true ∧ u.pending = commandWrites (.rxclr :: bs.map .rxpush) :=
  ⟨waiting (commandWrites (.ckseed 0xAA 0x55 :: (List.replicate 16 1).map .ckbyte)),
    waiting (commandWrites (.rxclr :: (List.replicate 16 1).map .rxpush)), List.replicate 16 1,
    by decide, by decide, by decide, rfl, rfl, rfl, rfl⟩

end Sys2Proof.Tests
end

/-! SUPPORT. The invariants of 10_state.md R33 through every operation, command, step and reset. -/

namespace Sys2Proof.Machine

/-! ## Bytes of a cleared buffer, lengths of frames -/

@[simp] theorem byteAt_replicate_zero (n i : Nat) : byteAt (List.replicate n 0#8) i = 0#8 := by
  by_cases h : i < n
  · rw [byteAt_of_lt (by simpa using h), List.getElem_replicate]
  · exact byteAt_of_le (by simpa using h)

@[simp] theorem frame_length (p : Params) (payload : List Byte) :
    (frame p payload).length = payload.length + 5 := by
  simp [frame, preamble, trailer]

@[simp] theorem asnPayload_length (n : Byte) : (asnPayload n).length = 6 := rfl

@[simp] theorem posPayload_length (opt : Byte) (pos : Half) : (posPayload opt pos).length = 15 := rfl

/-! ## One rule per operation on the block -/

section Operations

variable {p : Params} {k : Block}

theorem Block.Inv.setErr (h : k.Inv p) {e : ErrBits} (he : e.toNat ≤ 4) : (k.setErr e).Inv p :=
  { h with errLegal := he }

theorem Block.Inv.ok (h : k.Inv p) : k.ok.Inv p := h.setErr (Nat.zero_le 4)

theorem Block.Inv.raise (h : k.Inv p) (e : BlockError) : (k.raise e).Inv p :=
  h.setErr (by cases e <;> decide)

theorem Block.Inv.setAcc (h : k.Inv p) (a x : Byte) : (k.setAcc a x).Inv p := { h with }

theorem Block.Inv.setRawcnt (h : k.Inv p) (n : Byte) : (k.setRawcnt n).Inv p := { h with }

theorem Block.Inv.setAck (h : k.Inv p) (st : AckStatus) : (k.setAck st).Inv p :=
  { h with ackCleared := by simp }

theorem Block.Inv.clearAck (h : k.Inv p) : k.clearAck.Inv p :=
  { h with ackCleared := by simp }

/-- A frame of 11 or 20 bytes (30_encoding.md R86, R87), its length in `TXLEN` and zeros after it. -/
theorem Block.Inv.setTx (h : k.Inv p) {f : List Byte} (hf : f.length = 11 ∨ f.length = 20) :
    (k.setTx (padTo p.txCap f) (BitVec.ofNat 8 f.length)).Inv p :=
  { h with
    txSize := by simp
    txLength := by rcases hf with hf | hf <;> simp [hf]
    txTail := fun i hi hlen => by
      have hle : f.length ≤ i := by
        rw [Block.setTx_txlen, BitVec.toNat_ofNat, Nat.mod_eq_of_lt (by omega)] at hlen
        exact hlen
      rw [Block.setTx_txbuf, byteAt_padTo f hi, byteAt_of_le hle] }

theorem Block.Inv.writeFrame (h : k.Inv p) {f : List Byte} (hf : f.length = 11 ∨ f.length = 20) :
    (k.writeFrame p f).Inv p :=
  (h.setTx hf).setAcc _ _

theorem Block.Inv.clearRx (h : k.Inv p) : (k.clearRx p).Inv p :=
  { h with
    rxSize := by simp [Block.clearRx]
    rxCount := by simp [Block.clearRx]
    rxTail := by simp [Block.clearRx] }

/-- The stored byte is the one that leaves the tail, since `RXCNT` counts it. -/
theorem Block.Inv.storeRx (h : k.Inv p) (hcap : p.rxCap < 256) (hlt : k.rxcnt.toNat < p.rxCap) (a : Byte) :
    (k.storeRx a).Inv p := by
  have hcnt : (k.rxcnt + 1).toNat = k.rxcnt.toNat + 1 := by
    simp only [BitVec.toNat_add, BitVec.ofNat_eq_ofNat, BitVec.toNat_ofNat]
    omega
  exact { h with
    rxSize := by simp [Block.storeRx, h.rxSize]
    rxCount := by rw [Block.storeRx, Block.setRx_rxcnt, hcnt]; omega
    rxTail := fun i hi hle => by
      rw [Block.storeRx, Block.setRx_rxcnt, hcnt] at hle
      rw [Block.storeRx, Block.setRx_rxbuf, byteAt_set a (by rw [h.rxSize]; exact hlt), if_neg (by omega)]
      exact h.rxTail i hi (by omega) }

theorem Block.Inv.acceptAck (h : k.Inv p) : (k.acceptAck p).Inv p := (h.setAck _).ok

theorem Block.Inv.rejectAck (h : k.Inv p) (e : BlockError) : (k.rejectAck e).Inv p := h.clearAck.raise e

theorem Block.Inv.rxpush (h : k.Inv p) (hp : p.Legal) (a : Byte) : (k.rxpush p a).Inv p := by
  have hcap := hp.rxCap
  have hcnt := h.rxCount
  obtain ⟨-, heq⟩ | ⟨hne, heq⟩ := rxpush_cases p a k
  · exact heq ▸ h.raise _
  · exact heq ▸ (h.storeRx (by omega) (by omega) a).ok

theorem Block.Inv.decack (h : k.Inv p) : (k.decack p).Inv p := by
  have hraw := h.setRawcnt k.rxcnt
  obtain ⟨-, heq⟩ | ⟨-, -, heq⟩ | ⟨-, -, -, heq⟩ | ⟨-, -, -, heq⟩ := decack_cases p k
  · exact heq ▸ hraw.rejectAck _
  · exact heq ▸ hraw.acceptAck
  · exact heq ▸ (hraw.setAcc _ _).acceptAck
  · exact heq ▸ (hraw.setAcc _ _).rejectAck _

end Operations

/-! ## Commands and reset -/

theorem runCommand_inv {p : Params} {k : Block} (hp : p.Legal) (h : k.Inv p) (i : Instr) :
    (runCommand p i k).Inv p := by
  cases i with
  | nop => exact h.ok
  | ckseed sa sx => exact (h.setAcc sa sx).ok
  | ckbyte b => exact (h.setAcc _ _).ok
  | encasn n => exact (h.writeFrame (by simp)).ok
  | encpoll => exact (h.writeFrame (by simp)).ok
  | encmove pos => exact (h.writeFrame (by simp)).ok
  | rxclr => exact h.clearRx.ok
  | rxpush b => exact h.rxpush hp b
  | decack => exact h.decack

theorem Block.reset_inv (p : Params) : (Block.reset p).Inv p where
  txSize := by simp [Block.reset]
  rxSize := by simp [Block.reset]
  rxCount := by simp [Block.reset]
  rxTail := by simp [Block.reset]
  txLength := .inl rfl
  txTail := by simp [Block.reset]
  ackCleared := by simp [Block.reset]
  errLegal := Nat.zero_le 4

/-- Settles O43, from one rule per operation on the block. -/
theorem commandsKeepTheInvariants : Obligations.CommandsKeepTheInvariants := by
  intro p i k hp h
  exact runCommand_inv hp h i

/-- Settles O45, case by case over what a step can have done to the block. -/
theorem stepKeepsTheInvariants : Obligations.StepKeepsTheInvariants := by
  intro s t h hstep
  obtain hb | ⟨i, hb⟩ | hb | hb := step_next_block hstep <;> rw [hb]
  · exact h
  · exact runCommand_inv Params.hw_legal h i
  · exact h.setErr (by decide)
  · exact Block.reset_inv Params.hw

end Sys2Proof.Machine

/-! SUPPORT. Each group of state elements and the commands that write it (10_state.md R16 to R31, R34). -/

namespace Sys2Proof.Machine

/-! ## The ack result registers as one value -/

/-- The ack result registers and `ACK_VALID` (R22 to R30) together: what `DECACK` alone writes. -/
def Block.ackRegs (k : Block) : AckStatus × Bool :=
  ({ position := k.ackPos, voltage := k.ackVolt, torque := k.ackTorq, engaged := k.ackEngaged,
     slipping := k.ackSlipping, voltageAlarm := k.ackValarm, rawflags := k.ackRawflags,
     rawcnt := k.ackRawcnt }, k.ackValid)

theorem ackRegs_eq_iff (k k' : Block) : k.ackRegs = k'.ackRegs ↔
    k.ackPos = k'.ackPos ∧ k.ackVolt = k'.ackVolt ∧ k.ackTorq = k'.ackTorq ∧ k.ackEngaged = k'.ackEngaged ∧
      k.ackSlipping = k'.ackSlipping ∧ k.ackValarm = k'.ackValarm ∧ k.ackRawflags = k'.ackRawflags ∧
      k.ackRawcnt = k'.ackRawcnt ∧ k.ackValid = k'.ackValid := by
  simp only [Block.ackRegs, Prod.mk.injEq, AckStatus.mk.injEq, and_assoc]

/-! ## What `RXPUSH` and `DECACK` can write -/

/-- `RXPUSH` writes the receive buffer, its count and `ERR`. -/
theorem rxpush_eq_setRx (p : Params) (a : Byte) (k : Block) :
    ∃ b n e, k.rxpush p a = (k.setRx b n).setErr e := by
  obtain ⟨-, heq⟩ | ⟨-, heq⟩ := rxpush_cases p a k
  · exact ⟨k.rxbuf, k.rxcnt, _, heq⟩
  · exact ⟨_, _, _, heq⟩

/-- `DECACK` reads the receive side and writes neither buffer (R105, R117). -/
theorem decack_keeps_buffers (p : Params) (k : Block) :
    (k.decack p).txbuf = k.txbuf ∧ (k.decack p).txlen = k.txlen ∧
      (k.decack p).rxbuf = k.rxbuf ∧ (k.decack p).rxcnt = k.rxcnt := by
  obtain ⟨-, heq⟩ | ⟨-, -, heq⟩ | ⟨-, -, -, heq⟩ | ⟨-, -, -, heq⟩ := decack_cases p k <;> rw [heq] <;>
    exact ⟨rfl, rfl, rfl, rfl⟩

/-- `DECACK` on this hardware with fewer than 10 bytes received (R116, R127). -/
theorem decack_hw_of_lt {k : Block} (h : k.rxcnt.toNat < 10) :
    k.decack Params.hw = ((k.setRawcnt k.rxcnt).clearAck).setErr 1 :=
  if_pos h

/-- `DECACK` on this hardware with at least 10 bytes received: no verification (R116, R6). -/
theorem decack_hw_of_le {k : Block} (h : 10 ≤ k.rxcnt.toNat) :
    k.decack Params.hw = ((k.setRawcnt k.rxcnt).setAck (ackFields Params.hw k.rxbuf k.rxcnt)).setErr 0 :=
  if_neg (Nat.not_lt.mpr h)

/-- An encode command's effect is fixed by its word: the same buffer, length and accumulators from every block. -/
theorem encode_eq_setTx (p : Params) {i : Instr} (h : i.mnemonic ∈ ["ENCASN", "ENCPOLL", "ENCMOVE"]) :
    ∃ b n a x, ∀ k, runCommand p i k = ((k.setTx b n).setAcc a x).setErr 0 := by
  cases i with
  | encasn n => exact ⟨_, _, _, _, fun _ => rfl⟩
  | encpoll => exact ⟨_, _, _, _, fun _ => rfl⟩
  | encmove pos => exact ⟨_, _, _, _, fun _ => rfl⟩
  | _ => exact absurd h (by simp [Instr.mnemonic])

/-! ## The frame of every command, group by group -/

/-- On this hardware, where `DECACK` does not verify, only the checksum and the encode commands write the
accumulators (R16, R17). -/
theorem runCommand_keeps_acc {i : Instr} (k : Block)
    (h : i.mnemonic ∉ ["CKSEED", "CKBYTE", "ENCASN", "ENCPOLL", "ENCMOVE"]) :
    (runCommand Params.hw i k).accAdd = k.accAdd ∧ (runCommand Params.hw i k).accXor = k.accXor := by
  cases i with
  | nop => exact ⟨rfl, rfl⟩
  | rxclr => exact ⟨rfl, rfl⟩
  | rxpush b => obtain ⟨_, _, _, heq⟩ := rxpush_eq_setRx Params.hw b k; simp [runCommand, heq]
  | decack =>
    obtain hlt | hle := Nat.lt_or_ge k.rxcnt.toNat 10
    · simp [runCommand, decack_hw_of_lt hlt]
    · simp [runCommand, decack_hw_of_le hle]
  | _ => exact absurd (by simp [Instr.mnemonic]) h

/-- Only the encode commands write the transmit side (R18, R19). -/
theorem runCommand_keeps_tx {i : Instr} (p : Params) (k : Block)
    (h : i.mnemonic ∉ ["ENCASN", "ENCPOLL", "ENCMOVE"]) :
    (runCommand p i k).txbuf = k.txbuf ∧ (runCommand p i k).txlen = k.txlen := by
  cases i with
  | nop => exact ⟨rfl, rfl⟩
  | ckseed sa sx => exact ⟨rfl, rfl⟩
  | ckbyte b => exact ⟨rfl, rfl⟩
  | rxclr => exact ⟨rfl, rfl⟩
  | rxpush b => obtain ⟨_, _, _, heq⟩ := rxpush_eq_setRx p b k; simp [runCommand, heq]
  | decack =>
    obtain ⟨htxbuf, htxlen, -, -⟩ := decack_keeps_buffers p k
    exact ⟨htxbuf, htxlen⟩
  | _ => exact absurd (by simp [Instr.mnemonic]) h

/-- Only `RXCLR` and `RXPUSH` write the receive side (R20, R21). -/
theorem runCommand_keeps_rx {i : Instr} (p : Params) (k : Block) (h : i.mnemonic ∉ ["RXCLR", "RXPUSH"]) :
    (runCommand p i k).rxbuf = k.rxbuf ∧ (runCommand p i k).rxcnt = k.rxcnt := by
  cases i with
  | nop => exact ⟨rfl, rfl⟩
  | ckseed sa sx => exact ⟨rfl, rfl⟩
  | ckbyte b => exact ⟨rfl, rfl⟩
  | encasn n => exact ⟨rfl, rfl⟩
  | encpoll => exact ⟨rfl, rfl⟩
  | encmove pos => exact ⟨rfl, rfl⟩
  | decack =>
    obtain ⟨-, -, hrxbuf, hrxcnt⟩ := decack_keeps_buffers p k
    exact ⟨hrxbuf, hrxcnt⟩
  | _ => exact absurd (by simp [Instr.mnemonic]) h

/-- Only `DECACK` writes the ack result registers and `ACK_VALID` (R22 to R30). -/
theorem runCommand_keeps_ackRegs {i : Instr} (p : Params) (k : Block) (h : i ≠ .decack) :
    (runCommand p i k).ackRegs = k.ackRegs := by
  cases i with
  | rxpush b => obtain ⟨_, _, _, heq⟩ := rxpush_eq_setRx p b k; rw [runCommand, heq]; rfl
  | decack => exact absurd rfl h
  | _ => rfl

/-- Settles O30, one frame lemma per group of elements. -/
theorem eachElementHasItsWriters : Obligations.EachElementHasItsWriters := by
  intro i s t h
  obtain ⟨hblock, hport⟩ := exec_next h
  rw [hblock]
  refine ⟨runCommand_keeps_acc s.block, runCommand_keeps_tx Params.hw s.block,
    runCommand_keeps_rx Params.hw s.block, fun hm => ?_, hport⟩
  have hi : i ≠ .decack := by rintro rfl; exact hm rfl
  exact (ackRegs_eq_iff _ _).mp (runCommand_keeps_ackRegs Params.hw s.block hi)

/-! ## What results depend on -/

/-- The results of `DECACK` are functions of `RXBUF` and `RXCNT` (R105). -/
theorem decack_congr {k k' : Block} (hbuf : k.rxbuf = k'.rxbuf) (hcnt : k.rxcnt = k'.rxcnt) :
    (k.decack Params.hw).ackRegs = (k'.decack Params.hw).ackRegs ∧
      (k.decack Params.hw).err = (k'.decack Params.hw).err := by
  obtain hlt | hle := Nat.lt_or_ge k.rxcnt.toNat 10
  · rw [decack_hw_of_lt hlt, decack_hw_of_lt (hcnt ▸ hlt), hcnt]
    exact ⟨rfl, rfl⟩
  · rw [decack_hw_of_le hle, decack_hw_of_le (hcnt ▸ hle), hbuf, hcnt]
    exact ⟨rfl, rfl⟩

/-- Settles O31: an encode command writes constants of its word, `DECACK` a function of the received bytes. -/
theorem resultsDependOnTheirInputsAlone : Obligations.ResultsDependOnTheirInputsAlone := by
  intro i s s'
  refine ⟨_, _, exec_eq i s, exec_eq i s', fun henc => ?_, ?_⟩
  · obtain ⟨b, n, a, x, heq⟩ := encode_eq_setTx Params.hw henc
    simp [heq]
  · rintro rfl hbuf hcnt
    obtain ⟨hack, herr⟩ := decack_congr hbuf hcnt
    obtain ⟨hpos, hvolt, htorq, heng, hslip, halarm, hflags, hrawcnt, hvalid⟩ := (ackRegs_eq_iff _ _).mp hack
    exact ⟨hpos, hvolt, htorq, heng, hslip, halarm, hflags, hrawcnt, hvalid, herr⟩

/-- No command reads `ERR`, and each ends by writing it (R11, R134). -/
theorem runCommand_setErr (p : Params) (i : Instr) (e : ErrBits) (k : Block) :
    runCommand p i (k.setErr e) = runCommand p i k := by
  cases i <;> rfl

/-- Settles O29: commands write `ERR` without reading it, reads and ignored writes leave the block as it was. -/
theorem errIsNotSticky : Obligations.ErrIsNotSticky := by
  constructor
  · intro i s e
    rw [exec_eq, exec_eq]
    exact congrArg (fun k => Host.Outcome.next { s with block := k }) (runCommand_setErr Params.hw i e s.block)
  · intro s t rest hs hp hacc hreset hcmd
    cases t with
    | reset => exact absurd rfl hreset
    | read width off =>
      obtain ⟨rfl, ha, hw⟩ := hacc
      exact ⟨_, step_read hs hp ha hw, rfl⟩
    | write width off v =>
      obtain ⟨rfl, ha, hw⟩ := hacc
      have hoff : off ≠ 0 := by rintro rfl; exact hcmd v rfl
      exact ⟨s.pop, by rw [step_write hs hp ha hw, writeAt_of_ne_zero hoff], rfl⟩

/-! ## The flags agree with the raw flag byte -/

/-- The agreement speaks of the ack result registers alone. -/
theorem flagsAgree_of_ackRegs_eq {p : Params} {k k' : Block} (h : k.FlagsAgree p) (heq : k'.ackRegs = k.ackRegs) :
    k'.FlagsAgree p := by
  obtain ⟨-, -, -, heng, hslip, halarm, hflags, -, -⟩ := (ackRegs_eq_iff _ _).mp heq
  rw [Block.FlagsAgree, heng, hslip, halarm, hflags]
  exact h

theorem acceptAck_flagsAgree (p : Params) (k : Block) : (k.acceptAck p).FlagsAgree p := ⟨rfl, rfl, rfl⟩

/-- No flag bit is set in a cleared flag byte, whatever the masks are. -/
theorem flagsAgree_of_cleared {p : Params} {k : Block} (hflags : k.ackRawflags = 0) (heng : k.ackEngaged = false)
    (hslip : k.ackSlipping = false) (halarm : k.ackValarm = false) : k.FlagsAgree p := by
  simp [Block.FlagsAgree, hflags, heng, hslip, halarm]

theorem rejectAck_flagsAgree (p : Params) (e : BlockError) (k : Block) : (k.rejectAck e).FlagsAgree p :=
  flagsAgree_of_cleared rfl rfl rfl rfl

theorem Block.reset_flagsAgree (p : Params) : (Block.reset p).FlagsAgree p :=
  flagsAgree_of_cleared rfl rfl rfl rfl

theorem decack_flagsAgree (p : Params) (k : Block) : (k.decack p).FlagsAgree p := by
  obtain ⟨-, heq⟩ | ⟨-, -, heq⟩ | ⟨-, -, -, heq⟩ | ⟨-, -, -, heq⟩ := decack_cases p k <;> rw [heq]
  · exact rejectAck_flagsAgree p _ _
  · exact acceptAck_flagsAgree p _
  · exact acceptAck_flagsAgree p _
  · exact rejectAck_flagsAgree p _ _

theorem runCommand_flagsAgree {p : Params} {k : Block} (h : k.FlagsAgree p) (i : Instr) :
    (runCommand p i k).FlagsAgree p := by
  by_cases hi : i = .decack
  · subst hi
    exact decack_flagsAgree p k
  · exact flagsAgree_of_ackRegs_eq h (runCommand_keeps_ackRegs p k hi)

/-- Settles O46: `DECACK` and reset make the flags agree, and nothing else writes them. -/
theorem stepKeepsTheFlagsAgreeing : Obligations.StepKeepsTheFlagsAgreeing := by
  intro s t h hstep
  obtain hb | ⟨i, hb⟩ | hb | hb := step_next_block hstep <;> rw [hb]
  · exact h
  · exact runCommand_flagsAgree h i
  · exact flagsAgree_of_ackRegs_eq h rfl
  · exact Block.reset_flagsAgree Params.hw

/-- Settles O44, from the reset rules of the two invariants. -/
theorem resetMeetsTheInvariants : Obligations.ResetMeetsTheInvariants :=
  ⟨fun p => ⟨Block.reset_inv p, Block.reset_flagsAgree p⟩, Block.reset_inv Params.hw, rfl⟩

end Sys2Proof.Machine

/-! SUPPORT. Runs over the port: command words, the receive side after `RXCLR` and pushes (42_ack_decoder.md R114,
R115), and reads of the window (20_memory.md R54, 10_state.md R47). -/

namespace Sys2Proof.Machine

/-! ## One command word -/

/-- The port after its first transaction is the port with the others waiting. -/
theorem State.pop_of_pending {s : State} {t : Transaction} {rest : List Transaction} (h : s.pending = t :: rest) :
    s.pop = { s with pending := rest } := by
  simp [State.pop, h]

/-- Settles O7: the write is admitted, stands at `CMD`, and its word decodes. -/
theorem stepRunsTheDecodedCommand : Obligations.StepRunsTheDecodedCommand := by
  intro s w i rest hs hp hd
  rw [step_write hs hp rfl (by decide), writeAt_zero, writeCmd_command hd, State.pop_of_pending hp]

/-! ## Command words of one byte operand -/

/-- The fields of a word that has the byte `b` above its opcode and nothing else (30_encoding.md R68). -/
theorem fields_of_byteWord {w : Word} {b op : Byte} (h : w.toNat = b.toNat * 256 + op.toNat) :
    fieldOp w = op ∧ fieldA w = b ∧ fieldB w = 0 ∧ fieldRsv w = 0 := by
  have hb := b.isLt
  have hop := op.isLt
  simp only [← BitVec.toNat_inj, fieldOp_toNat, fieldA_toNat, fieldB_toNat, fieldRsv_toNat, h,
    BitVec.ofNat_eq_ofNat, BitVec.toNat_ofNat]
  omega

theorem decode_encode_rxclr : decode (encode .rxclr) = .command .rxclr := by decide

theorem decode_encode_rxpush (b : Byte) : decode (encode (.rxpush b)) = .command (.rxpush b) := by
  obtain ⟨hop, ha, hb, hrsv⟩ := fields_of_byteWord (op := 0x21) (encode_rxpush_toNat b)
  simp [decode, whenClear, hop, ha, hb, hrsv]

theorem decode_encode_rxloadCommands {bs : List Byte} : ∀ i ∈ rxloadCommands bs, decode (encode i) = .command i := by
  intro i hi
  obtain rfl | ⟨b, -, rfl⟩ : i = .rxclr ∨ ∃ b, b ∈ bs ∧ .rxpush b = i := by simpa [rxloadCommands] using hi
  · exact decode_encode_rxclr
  · exact decode_encode_rxpush b

/-! ## A buffer that holds the first bytes of a sequence -/

/-- Bytes beyond the capacity are not in the buffer. -/
theorem padTo_append_of_le {cap : Nat} {bs : List Byte} (h : cap ≤ bs.length) (cs : List Byte) :
    padTo cap (bs ++ cs) = padTo cap bs := by
  refine eq_of_byteAt_eq (by simp) fun i hi => ?_
  rw [padTo_length] at hi
  rw [byteAt_padTo _ hi, byteAt_padTo _ hi, byteAt, byteAt, List.getD_append _ _ _ _ (by omega)]

/-- A buffer holds the bytes that fit, and zeros after them. -/
theorem padTo_eq_take_append (cap : Nat) (bs : List Byte) :
    padTo cap bs = bs.take cap ++ List.replicate (cap - bs.length) 0 := by
  obtain hlt | hle := Nat.lt_or_ge cap bs.length
  · have htake : (bs.take cap).length = cap := by rw [List.length_take]; omega
    have hpad := padTo_append_of_le (Nat.le_of_eq htake.symm) (bs.drop cap)
    rw [List.take_append_drop] at hpad
    rw [hpad, padTo_eq_append (by omega), htake, Nat.sub_self, Nat.sub_eq_zero_of_le (Nat.le_of_lt hlt)]
  · rw [padTo_eq_append hle, List.take_of_length_le hle]

/-- The byte stored after a sequence that does not fill the buffer extends the sequence. -/
theorem padTo_set_length {cap : Nat} {bs : List Byte} (h : bs.length < cap) (b : Byte) :
    (padTo cap bs).set bs.length b = padTo cap (bs ++ [b]) := by
  refine eq_of_byteAt_eq (by simp) fun i hi => ?_
  rw [List.length_set, padTo_length] at hi
  rw [byteAt_set b (by rw [padTo_length]; exact h), byteAt_padTo _ hi, byteAt_padTo _ hi]
  obtain hlt | rfl | hgt := Nat.lt_trichotomy i bs.length
  · rw [if_neg (by omega), byteAt, byteAt, List.getD_append _ _ _ _ hlt]
  · simp [byteAt]
  · rw [if_neg (by omega), byteAt_of_le (by omega), byteAt_of_le (by simp; omega)]

/-! ## The receive side after `RXCLR` and pushes -/

/-- The block after the bytes `bs` have come in: those that fit, their count, and whether one was dropped. -/
def Block.receive (p : Params) (bs : List Byte) (k : Block) : Block :=
  (k.setRx (padTo p.rxCap bs) (BitVec.ofNat 8 (min bs.length p.rxCap))).setErr (if bs.length ≤ p.rxCap then 0 else 4)

theorem rxclr_eq_receive (p : Params) (k : Block) : k.rxclr p = k.receive p [] := by
  simp [Block.rxclr, Block.clearRx, Block.receive, padTo_eq_append]

/-- Every byte fitted. -/
theorem receive_of_le {p : Params} {bs : List Byte} (h : bs.length ≤ p.rxCap) (k : Block) :
    k.receive p bs = (k.setRx (padTo p.rxCap bs) (BitVec.ofNat 8 bs.length)).setErr 0 := by
  rw [Block.receive, Nat.min_eq_left h, if_pos h]

/-- A byte was dropped. -/
theorem receive_of_lt {p : Params} {bs : List Byte} (h : p.rxCap < bs.length) (k : Block) :
    k.receive p bs = (k.setRx (padTo p.rxCap bs) (BitVec.ofNat 8 p.rxCap)).setErr 4 := by
  rw [Block.receive, Nat.min_eq_right (Nat.le_of_lt h), if_neg (Nat.not_le.mpr h)]

theorem receive_rxcnt_toNat {p : Params} (hcap : p.rxCap < 256) (bs : List Byte) (k : Block) :
    (k.receive p bs).rxcnt.toNat = min bs.length p.rxCap := by
  rw [Block.receive, Block.setErr_rxcnt, Block.setRx_rxcnt, BitVec.toNat_ofNat, Nat.mod_eq_of_lt (by omega)]

theorem rxpush_receive {p : Params} (hcap : p.rxCap < 256) (bs : List Byte) (b : Byte) (k : Block) :
    (k.receive p bs).rxpush p b = k.receive p (bs ++ [b]) := by
  have hcnt := receive_rxcnt_toNat hcap bs k
  have hlen : (bs ++ [b]).length = bs.length + 1 := List.length_append
  obtain ⟨hfull, heq⟩ | ⟨hroom, heq⟩ := rxpush_cases p b (k.receive p bs) <;> rw [heq]
  · have hle : p.rxCap ≤ bs.length := by omega
    rw [receive_of_lt (bs := bs ++ [b]) (by omega), padTo_append_of_le hle, Block.receive, Nat.min_eq_right hle]
    rfl
  · have hlt : bs.length < p.rxCap := by omega
    rw [Nat.min_eq_left (Nat.le_of_lt hlt)] at hcnt
    rw [receive_of_le (bs := bs ++ [b]) (by omega), ← padTo_set_length hlt, Block.storeRx, hcnt,
      receive_of_le (Nat.le_of_lt hlt), hlen, BitVec.ofNat_add]
    rfl

/-- `RXCLR` and one `RXPUSH` per byte, in every implementation (R114, R115, R153). -/
theorem runCommands_rxload {p : Params} (hcap : p.rxCap < 256) (bs : List Byte) (k : Block) :
    runCommands p (rxloadCommands bs) k = k.receive p bs := by
  induction bs using List.reverseRecOn with
  | nil => exact rxclr_eq_receive p k
  | append_singleton bs b ih =>
    have hsplit : rxloadCommands (bs ++ [b]) = rxloadCommands bs ++ [.rxpush b] := by simp [rxloadCommands]
    rw [hsplit, runCommands_append, ih]
    exact rxpush_receive hcap bs b k

/-- Settles O35, by induction on the bytes received, the last one first. -/
theorem receiveBufferHoldsTheFirstSixteen : Obligations.ReceiveBufferHoldsTheFirstSixteen := by
  intro bs rest s hs hp
  have hlen : (rxloadCommands bs).length = bs.length + 1 := by simp [rxloadCommands]
  rw [← hlen, run_commandWrites hs decode_encode_rxloadCommands hp, runCommands_rxload (by decide), Block.receive,
    padTo_eq_take_append]
  rfl

/-! ## Runs of reads -/

/-- A run over admitted reads gives the host their values, in order, and changes no state element (R54). -/
theorem run_reads {offs : List Nat} {rest : List Transaction} {s : State} (hs : s.started = true)
    (hadm : ∀ off ∈ offs, off % 4 = 0 ∧ off ≤ 0x3FC) (hp : s.pending = offs.map (.read 4) ++ rest) :
    run offs.length s =
      .next { s with pending := rest, replies := s.replies ++ offs.map (s.block.readAt Params.hw) } := by
  induction offs generalizing s with
  | nil =>
    rw [List.map_nil, List.nil_append] at hp
    simp [← hp]
  | cons off offs ih =>
    obtain ⟨⟨ha, hw⟩, hadm⟩ := List.forall_mem_cons.mp hadm
    rw [List.map_cons, List.cons_append] at hp
    rw [List.length_cons, run_succ_of_next _ (step_read hs hp ha hw), ih (by simpa using hs) hadm (by simp [hp])]
    simp [State.pop, State.answer]

theorem readAt_txlen (k : Block) : k.readAt Params.hw 0x010 = zextByte k.txlen := rfl

theorem readAt_txbuf {i : Nat} (h : i < 32) (k : Block) :
    k.readAt Params.hw (0x100 + 4 * i) = zextByte (byteAt k.txbuf i) := by
  rw [Block.readAt, regAt_txbuf h]
  rfl

/-- The offsets of `frameReads`. -/
def frameOffsets (n : Nat) : List Nat := 0x010 :: (List.range n).map (0x100 + 4 * ·)

theorem frameReads_eq_map (n : Nat) : frameReads n = (frameOffsets n).map (.read 4) := by
  simp [frameReads, frameOffsets]

@[simp] theorem frameOffsets_length (n : Nat) : (frameOffsets n).length = n + 1 := by
  simp [frameOffsets]

theorem frameOffsets_admitted {n : Nat} (h : n ≤ 32) : ∀ off ∈ frameOffsets n, off % 4 = 0 ∧ off ≤ 0x3FC := by
  intro off hoff
  obtain rfl | ⟨i, hi, rfl⟩ : off = 0x010 ∨ ∃ i, i < n ∧ 0x100 + 4 * i = off := by
    simpa [frameOffsets] using hoff
  · decide
  · omega

/-- The values of `frameReads`: the length, then the buffer's first bytes (R19, R47). -/
theorem map_readAt_frameOffsets {n : Nat} {k : Block} (hn : n ≤ 32) (hlen : n ≤ k.txbuf.length) :
    (frameOffsets n).map (k.readAt Params.hw) = zextByte k.txlen :: (k.txbuf.take n).map zextByte := by
  have htake : padTo n k.txbuf = k.txbuf.take n := by
    rw [padTo_eq_take_append, Nat.sub_eq_zero_of_le hlen, List.replicate_zero, List.append_nil]
  rw [frameOffsets, List.map_cons, readAt_txlen, ← htake, padTo, List.map_map, List.map_map]
  congr 1
  refine List.map_congr_left fun i hi => readAt_txbuf ?_ k
  exact Nat.lt_of_lt_of_le (List.mem_range.mp hi) hn

/-- Settles O48, as a run of admitted reads. -/
theorem frameReadsDeliverTheBuffer : Obligations.FrameReadsDeliverTheBuffer := by
  intro n rest s hn hs hlen hp
  rw [frameReads_eq_map] at hp
  rw [← frameOffsets_length n, run_reads hs (frameOffsets_admitted hn) hp, map_readAt_frameOffsets hn (by omega)]

end Sys2Proof.Machine

/-! SUPPORT. The window as a host sees it (20_memory.md): what each admitted transaction does to the block, runs over
admitted transactions, interleavings of host agents, the values of reads, and the window's addresses. -/

namespace Sys2Proof.Machine

/-! ## What an admitted transaction does to the block -/

/-- What the block makes of a word written to `CMD` (43_system.md R122): the rule of its command, or R121. -/
def Block.takeWord (v : Word) (k : Block) : Block :=
  match decode v with
  | .command i => runCommand Params.hw i k
  | .illegal _ => k.illegal

/-- What an admitted transaction makes of the block: only a reset and a write to `CMD` change it (20_memory.md R53,
R54). -/
def Transaction.effect : Transaction → Block → Block
  | .reset, _ => Block.reset Params.hw
  | .read _ _, k => k
  | .write _ off v, k => if off = 0 then k.takeWord v else k

/-- What admitted transactions, one after the other, make of the block. -/
def effects (ts : List Transaction) (k : Block) : Block := ts.foldl (fun k t => t.effect k) k

@[simp] theorem effects_nil (k : Block) : effects [] k = k := rfl

@[simp] theorem effects_cons (t : Transaction) (ts : List Transaction) (k : Block) :
    effects (t :: ts) k = effects ts (t.effect k) := rfl

theorem writeCmd_eq (v : Word) (s : State) : writeCmd v s = .next (s.onBlock (Block.takeWord v)) := by
  obtain ⟨i, hd, hw⟩ | ⟨why, hd, hw⟩ := writeCmd_cases v s
  · simp [hw, State.onBlock, Block.takeWord, hd]
  · simp [hw, State.onBlock, Block.takeWord, hd, Block.illegal]

/-- The step on an admitted write anywhere but at `CMD`: the port has taken it, and that is all (R52, R53). -/
theorem step_write_ignored {s : State} {off : Nat} {v : Word} {rest : List Transaction} (hs : s.started = true)
    (hp : s.pending = .write 4 off v :: rest) (ha : off % 4 = 0) (hw : off ≤ 0x3FC) (h : off ≠ 0) :
    step s = .next { s with pending := rest } := by
  rw [step_write hs hp ha hw, writeAt_of_ne_zero h, State.pop_of_pending hp]

/-- The step on an admitted transaction, from a block that has been reset: it is taken, with its effect on the
block, which stays ready for the next. -/
theorem step_accepted {s : State} {t : Transaction} {rest : List Transaction} (hs : s.started = true)
    (hp : s.pending = t :: rest) (ht : t.Accepted) :
    ∃ u, step s = .next u ∧ u.block = t.effect s.block ∧ u.started = true ∧ u.pending = rest := by
  cases t with
  | reset => exact ⟨_, step_reset hp, rfl, rfl, by simp [hp]⟩
  | read width off =>
    obtain ⟨rfl, ha, hw⟩ := ht
    exact ⟨_, step_read hs hp ha hw, rfl, hs, by simp [hp]⟩
  | write width off v =>
    obtain ⟨rfl, ha, hw⟩ := ht
    by_cases h0 : off = 0
    · subst h0
      have hstep : step s = .next (s.pop.onBlock (Block.takeWord v)) := by
        rw [step_write hs hp ha hw, writeAt_zero, writeCmd_eq]
      exact ⟨_, hstep, rfl, hs, by simp [hp]⟩
    · exact ⟨_, step_write_ignored hs hp ha hw h0, (if_neg h0).symm, hs, rfl⟩

/-- A run over admitted transactions takes each of them, in order, and leaves the others waiting. -/
theorem run_accepted {ts rest : List Transaction} {s : State} (hs : s.started = true)
    (hp : s.pending = ts ++ rest) (hts : ∀ t ∈ ts, t.Accepted) :
    ∃ u, run ts.length s = .next u ∧ u.block = effects ts s.block ∧ u.started = true ∧ u.pending = rest := by
  induction ts generalizing s with
  | nil => exact ⟨s, rfl, rfl, hs, hp⟩
  | cons t ts ih =>
    obtain ⟨ht, hts⟩ := List.forall_mem_cons.mp hts
    obtain ⟨u, hstep, hblock, hstarted, hpending⟩ := step_accepted hs hp ht
    rw [List.length_cons, run_succ_of_next _ hstep, effects_cons, ← hblock]
    exact ih hstarted hpending hts

/-- Settles O16, as a run over all that waits. -/
theorem admittedTransactionsAreAllTaken : Obligations.AdmittedTransactionsAreAllTaken := by
  intro s hs hacc
  obtain ⟨t, hrun, -, hstarted, hpending⟩ := run_accepted hs (List.append_nil _).symm hacc
  exact ⟨t, hrun, hpending, hstarted⟩

/-! ## Reads -/

theorem Transaction.IsRead.accepted {t : Transaction} (h : t.IsRead) : t.Accepted := by
  cases t with
  | read width off => exact h
  | write width off v => exact h.elim
  | reset => exact h.elim

theorem Transaction.IsRead.effect_eq {t : Transaction} (h : t.IsRead) (k : Block) : t.effect k = k := by
  cases t with
  | read width off => rfl
  | write width off v => exact h.elim
  | reset => exact h.elim

/-- Settles O9, as a run of admitted reads at one offset. -/
theorem readsHaveNoSideEffects : Obligations.ReadsHaveNoSideEffects := by
  intro s off n rest hs hp ha hw
  have hadm : ∀ o ∈ List.replicate n off, o % 4 = 0 ∧ o ≤ 0x3FC := by
    intro o ho
    rw [List.eq_of_mem_replicate ho]
    exact ⟨ha, hw⟩
  simpa using run_reads hs hadm (by simpa using hp)

end Sys2Proof.Machine

/-! SUPPORT. Interleavings of two lists (20_memory.md R62). -/

namespace Sys2Proof

open Machine

/-- Every member of an interleaving is a member of one of its two lists. -/
theorem Interleaving.mem_or_mem {α : Type} {a b l : List α} (h : Interleaving a b l) {x : α} (hx : x ∈ l) :
    x ∈ a ∨ x ∈ b := by
  induction h with
  | done => exact .inl hx
  | left y _ ih =>
    obtain rfl | hx := List.mem_cons.mp hx
    · exact .inl List.mem_cons_self
    · exact (ih hx).imp_left (List.mem_cons_of_mem y)
  | right y _ ih =>
    obtain rfl | hx := List.mem_cons.mp hx
    · exact .inr List.mem_cons_self
    · exact (ih hx).imp_right (List.mem_cons_of_mem y)

/-- Reads put among other transactions, anywhere, add nothing to their effect on the block (R54). -/
theorem Interleaving.effects_eq {a b l : List Transaction} (h : Interleaving a b l) (hb : ∀ t ∈ b, t.IsRead)
    (k : Block) : effects l k = effects a k := by
  induction h generalizing k with
  | done => rfl
  | left t _ ih => exact ih hb (t.effect k)
  | right t _ ih =>
    obtain ⟨ht, hb⟩ := List.forall_mem_cons.mp hb
    rw [effects_cons, ht.effect_eq k]
    exact ih hb k

end Sys2Proof

namespace Sys2Proof.Machine

/-- Settles O47: both runs are over admitted transactions, and the reads add nothing to their effect. -/
theorem readersDoNotDisturbTheBlock : Obligations.ReadersDoNotDisturbTheBlock := by
  intro s a b l hs hil ha hb
  have hl : ∀ t ∈ l, t.Accepted := fun t ht =>
    (hil.mem_or_mem ht).elim (ha t) fun htb => (hb t htb).accepted
  obtain ⟨t, hrun, htblock, -, -⟩ := run_accepted (s := { s with pending := l }) hs (List.append_nil l).symm hl
  obtain ⟨u, hrun', hublock, -, -⟩ := run_accepted (s := { s with pending := a }) hs (List.append_nil a).symm ha
  exact ⟨t, u, hrun, hrun', by rw [htblock, hublock, hil.effects_eq hb]⟩

/-! ## Offsets of the window -/

theorem readAt_rxbuf {i : Nat} (h : i < 16) (k : Block) :
    k.readAt Params.hw (0x200 + 4 * i) = zextByte (byteAt k.rxbuf i) := by
  rw [Block.readAt, regAt_rxbuf h]
  rfl

/-- No register stands at an offset that R52 leaves unmapped, so it reads 0. -/
theorem readAt_unmapped {off : Nat} (h : UnmappedByR52 off) (k : Block) :
    k.readAt Params.hw off = 0 := by
  rw [Block.readAt, regAt_unmapped (by unfold UnmappedByR52 at h; omega)]

/-- Settles O10, register by register: a byte or half word extended with zeros, a packed register, or a buffer
window. -/
theorem mappedReadsReturnTheRegisters : Obligations.MappedReadsReturnTheRegisters := by
  intro k r
  refine ⟨rfl, statusWord_toNat k, zextByte_toNat k.accAdd, zextByte_toNat k.accXor, zextByte_toNat k.txlen,
    zextByte_toNat k.rxcnt, zextHalf_toNat k.ackPos, zextByte_toNat k.ackVolt, zextByte_toNat k.ackTorq,
    ackFlagsWord_toNat k, zextByte_toNat k.ackRawcnt, fun i hi => ?_, fun i hi => ?_⟩
  · exact (congrArg BitVec.toNat (readAt_txbuf hi k)).trans (zextByte_toNat _)
  · exact (congrArg BitVec.toNat (readAt_rxbuf hi k)).trans (zextByte_toNat _)

/-- Settles O11: no register stands at the offset, so a read gives 0 and a write is one of those ignored. -/
theorem unmappedOffsetsReadZeroAndIgnoreWrites : Obligations.UnmappedOffsetsReadZeroAndIgnoreWrites := by
  intro s off v rest hs ha hun
  obtain ⟨hw, h0⟩ : off ≤ 0x3FC ∧ off ≠ 0 := by unfold UnmappedByR52 at hun; omega
  constructor
  · intro hp
    rw [step_read hs hp ha hw, readAt_unmapped hun, State.pop_of_pending hp]
    rfl
  · intro hp
    exact step_write_ignored hs hp ha hw h0

/-- Settles O12, by the two kinds of offset a write can stand at. -/
theorem onlyCmdTakesWrites : Obligations.OnlyCmdTakesWrites := by
  intro s off v rest hs hp ha hw
  constructor
  · rintro rfl
    rw [step_write hs hp ha hw, writeAt_zero, State.pop_of_pending hp]
  · exact step_write_ignored hs hp ha hw

/-! ## The window in the host's address space -/

theorem windowOffset_of_lt {p : Params} {off : Nat} (h : off < 0x400) :
    windowOffset p (p.regBase + off) = some off := by
  rw [windowOffset, if_pos (by omega), Nat.add_sub_cancel_left]

theorem windowOffset_outside {p : Params} {addr : Nat} (h : addr < p.regBase ∨ p.regBase + 0x400 ≤ addr) :
    windowOffset p addr = none := by
  rw [windowOffset, if_neg (by omega)]

/-- An address outside the window makes no transaction of the block (log entry 13). -/
theorem memWrite_memRead_outside {p : Params} {addr : Nat} (h : addr < p.regBase ∨ p.regBase + 0x400 ≤ addr)
    (width : Nat) (v : Word) : memWrite p addr width v = none ∧ memRead p addr width = none := by
  simp [memWrite, memRead, windowOffset_outside h]

/-- Settles O17, from the offset of an address inside, above and below the window. -/
theorem windowAddressesAreOffsetsFromTheBase : Obligations.WindowAddressesAreOffsetsFromTheBase := by
  intro p off width v
  refine ⟨fun h => ?_, fun h => ?_, fun h => ?_⟩
  · simp [memWrite, memRead, windowOffset_of_lt h]
  · exact memWrite_memRead_outside (.inr (by omega)) width v
  · exact memWrite_memRead_outside (.inl h) width v

end Sys2Proof.Machine

/-! SUPPORT. Command words as their four fields (30_encoding.md R68): the encoder spells each command's fields, the
decoder reads them back, and the rows of spec/opcode_table.json and the illegal words of R74 are told apart by them. -/

namespace Sys2Proof

open Machine

/-! ## A word is its four fields -/

/-- The four fields of a command word (R68), lowest first. -/
structure WordFields where
  op : Byte
  a : Byte
  b : Byte
  rsv : Byte

/-- The fields of a word. -/
def fields (w : Word) : WordFields := ⟨fieldOp w, fieldA w, fieldB w, fieldRsv w⟩

/-- The fields of the word that R77's table spells for a command. -/
def Instr.fields : Instr → WordFields
  | .nop => ⟨0x00, 0, 0, 0⟩
  | .ckseed sa sx => ⟨0x01, sa, sx, 0⟩
  | .ckbyte b => ⟨0x02, b, 0, 0⟩
  | .encasn n => ⟨0x10, n, 0, 0⟩
  | .encpoll => ⟨0x11, 0, 0, 0⟩
  | .encmove p => ⟨0x12, posLo p, posHi p, 0⟩
  | .rxclr => ⟨0x20, 0, 0, 0⟩
  | .rxpush b => ⟨0x21, b, 0, 0⟩
  | .decack => ⟨0x22, 0, 0, 0⟩

theorem fields_eq_mk_iff {w : Word} {op a b rsv : Byte} :
    fields w = ⟨op, a, b, rsv⟩ ↔ fieldOp w = op ∧ fieldA w = a ∧ fieldB w = b ∧ fieldRsv w = rsv := by
  rw [fields, WordFields.mk.injEq]

/-- The fields are the base-256 digits of the word. -/
theorem fields_eq_iff_toNat (w : Word) (f : WordFields) :
    fields w = f ↔ w.toNat = f.op.toNat + f.a.toNat * 256 + f.b.toNat * 65536 + f.rsv.toNat * 16777216 := by
  obtain ⟨op, a, b, rsv⟩ := f
  have hop := op.isLt
  have ha := a.isLt
  have hb := b.isLt
  rw [fields_eq_mk_iff]
  simp only [← BitVec.toNat_inj, fieldOp_toNat, fieldA_toNat, fieldB_toNat, fieldRsv_toNat]
  omega

/-- No bit of a word is outside its fields. -/
theorem fields_inj {w w' : Word} : fields w = fields w' ↔ w = w' := by
  rw [fields_eq_iff_toNat, ← (fields_eq_iff_toNat w' _).mp rfl, BitVec.toNat_inj]

/-- The position field is the position whose two bytes are `A` and `B` (R69). -/
theorem fieldPos_eq_iff {w : Word} {p : Half} : fieldPos w = p ↔ fieldA w = posLo p ∧ fieldB w = posHi p := by
  simp only [← BitVec.toNat_inj, fieldPos_toNat, fieldA_toNat, fieldB_toNat, posLo_toNat, posHi_toNat]
  omega

/-- The two operand bytes are the bytes of the position field. -/
theorem fieldPos_bytes (w : Word) : fieldA w = posLo (fieldPos w) ∧ fieldB w = posHi (fieldPos w) :=
  fieldPos_eq_iff.mp rfl

theorem fields_encode (i : Instr) : fields (encode i) = i.fields := by
  rw [fields_eq_iff_toNat]
  cases i with
  | nop => rfl
  | ckseed sa sx => rw [encode_ckseed_toNat]; simp [Instr.fields]; omega
  | ckbyte b => rw [encode_ckbyte_toNat]; simp [Instr.fields]; omega
  | encasn n => rw [encode_encasn_toNat]; simp [Instr.fields]; omega
  | encpoll => rfl
  | encmove p => rw [encode_encmove_toNat]; simp [Instr.fields, posLo_toNat, posHi_toNat]; omega
  | rxclr => rfl
  | rxpush b => rw [encode_rxpush_toNat]; simp [Instr.fields]; omega
  | decack => rfl

/-! ## The decoder reads the fields -/

theorem whenClear_eq_command_iff {unused : Bool} {i j : Instr} :
    whenClear unused i = .command j ↔ unused = true ∧ i = j := by
  cases unused <;> simp [whenClear]

/-- A word with the fields of a command decodes to it (R73). -/
theorem decode_of_fields {w : Word} {i : Instr} (h : fields w = i.fields) : decode w = .command i := by
  obtain ⟨hop, ha, hb, hrsv⟩ := fields_eq_mk_iff.mp h
  cases i with
  | nop | encpoll | rxclr | decack =>
    simp [decode, whenClear, hop, hrsv, (fieldPos_eq_zero w).mpr ⟨ha, hb⟩]
  | ckseed sa sx => simp [decode, hop, ha, hb, hrsv]
  | ckbyte _ | encasn _ | rxpush _ => simp [decode, whenClear, hop, ha, hb, hrsv]
  | encmove p => simp [decode, hop, hrsv, fieldPos_eq_iff.mpr ⟨ha, hb⟩]

/-- R73's guard of a command without operands: the word has the command's fields. -/
theorem fields_of_clear_pos {w : Word} {op : Byte} {i j : Instr} (hop : fieldOp w = op) (hrsv : fieldRsv w = 0)
    (hi : i.fields = ⟨op, 0, 0, 0⟩) (h : whenClear (fieldPos w == 0) i = .command j) : fields w = j.fields := by
  obtain ⟨hpos, rfl⟩ := whenClear_eq_command_iff.mp h
  obtain ⟨ha, hb⟩ := (fieldPos_eq_zero w).mp (eq_of_beq hpos)
  rw [hi, fields_eq_mk_iff]
  exact ⟨hop, ha, hb, hrsv⟩

/-- R73's guard of a command with one byte operand: the word has the command's fields. -/
theorem fields_of_clear_b {w : Word} {op : Byte} {i j : Instr} (hop : fieldOp w = op) (hrsv : fieldRsv w = 0)
    (hi : i.fields = ⟨op, fieldA w, 0, 0⟩) (h : whenClear (fieldB w == 0) i = .command j) : fields w = j.fields := by
  obtain ⟨hb, rfl⟩ := whenClear_eq_command_iff.mp h
  rw [hi, fields_eq_mk_iff]
  exact ⟨hop, rfl, eq_of_beq hb, hrsv⟩

/-- A word that decodes to a command has the command's fields (R73). -/
theorem fields_of_decode {w : Word} {i : Instr} (h : decode w = .command i) : fields w = i.fields := by
  unfold decode at h
  split_ifs at h with hrsv h00 h01 h02 h10 h11 h12 h20 h21 h22
  all_goals simp only [not_not] at hrsv
  · exact fields_of_clear_pos h00 hrsv rfl h
  · cases h; exact fields_eq_mk_iff.mpr ⟨h01, rfl, rfl, hrsv⟩
  · exact fields_of_clear_b h02 hrsv rfl h
  · exact fields_of_clear_b h10 hrsv rfl h
  · exact fields_of_clear_pos h11 hrsv rfl h
  · cases h
    obtain ⟨ha, hb⟩ := fieldPos_bytes w
    exact fields_eq_mk_iff.mpr ⟨h12, ha, hb, hrsv⟩
  · exact fields_of_clear_pos h20 hrsv rfl h
  · exact fields_of_clear_b h21 hrsv rfl h
  · exact fields_of_clear_pos h22 hrsv rfl h

theorem decode_eq_command_iff {w : Word} {i : Instr} : decode w = .command i ↔ fields w = i.fields :=
  ⟨fields_of_decode, decode_of_fields⟩

/-- Settles O1: the encoder spells the fields that the decoder reads. -/
theorem decodeOfEncodeIsTheCommand : Obligations.DecodeOfEncodeIsTheCommand := fun i =>
  decode_eq_command_iff.mpr (fields_encode i)

/-- Settles O2: the word and the one of its command have the same four fields. -/
theorem encodeOfDecodeIsTheWord : Obligations.EncodeOfDecodeIsTheWord := fun _ i h =>
  fields_inj.mp ((fields_encode i).trans (decode_eq_command_iff.mp h).symm)

/-! ## The rows of the opcode table -/

/-- A word fits a row when each of its fields, under the row's mask, is the row's. -/
theorem fits_iff_fields {r : OpRow} {w : Word} : r.fits w = true ↔
    fieldOp w &&& fieldOp r.mask = fieldOp r.bits ∧ fieldA w &&& fieldA r.mask = fieldA r.bits ∧
      fieldB w &&& fieldB r.mask = fieldB r.bits ∧ fieldRsv w &&& fieldRsv r.mask = fieldRsv r.bits := by
  rw [OpRow.fits, beq_iff_eq, ← fields_inj]
  simp only [fields, WordFields.mk.injEq, fieldOp, fieldA, fieldB, fieldRsv, BitVec.extractLsb'_and]

theorem eq_of_and_mask {x y mask : Byte} (h : x &&& mask = y) (hm : mask = 0xFF := by decide) : x = y := by
  rw [← h, hm]
  exact BitVec.and_allOnes.symm

/-- A row without operand fields has one word. -/
theorem fields_of_fits_n {r : OpRow} {w : Word} (h : r.fits w = true) (hm : r.mask = 0xFFFFFFFF) :
    fields w = fields r.bits := by
  obtain ⟨hop, ha, hb, hrsv⟩ := hm ▸ fits_iff_fields.mp h
  exact fields_eq_mk_iff.mpr ⟨eq_of_and_mask hop, eq_of_and_mask ha, eq_of_and_mask hb, eq_of_and_mask hrsv⟩

/-- A row of format A (R70) leaves the field `A` free. -/
theorem fields_of_fits_a {r : OpRow} {w : Word} (h : r.fits w = true) (hm : r.mask = 0xFFFF00FF) :
    fields w = ⟨fieldOp r.bits, fieldA w, fieldB r.bits, fieldRsv r.bits⟩ := by
  obtain ⟨hop, -, hb, hrsv⟩ := hm ▸ fits_iff_fields.mp h
  exact fields_eq_mk_iff.mpr ⟨eq_of_and_mask hop, rfl, eq_of_and_mask hb, eq_of_and_mask hrsv⟩

/-- A row of format AB or P (R70) leaves the fields `A` and `B` free. -/
theorem fields_of_fits_ab {r : OpRow} {w : Word} (h : r.fits w = true) (hm : r.mask = 0xFF0000FF) :
    fields w = ⟨fieldOp r.bits, fieldA w, fieldB w, fieldRsv r.bits⟩ := by
  obtain ⟨hop, -, -, hrsv⟩ := hm ▸ fits_iff_fields.mp h
  exact fields_eq_mk_iff.mpr ⟨eq_of_and_mask hop, rfl, rfl, eq_of_and_mask hrsv⟩

/-- The word of every command fits a row with the command's mnemonic. -/
theorem encode_fits_row (i : Instr) : Laws.EncodeFitsRow.Statement i := by
  cases i with
  | nop => exact Laws.EncodeFitsRow.nop
  | ckseed sa sx => exact Laws.EncodeFitsRow.ckseed sa sx
  | ckbyte b => exact Laws.EncodeFitsRow.ckbyte b
  | encasn n => exact Laws.EncodeFitsRow.encasn n
  | encpoll => exact Laws.EncodeFitsRow.encpoll
  | encmove p => exact Laws.EncodeFitsRow.encmove p
  | rxclr => exact Laws.EncodeFitsRow.rxclr
  | rxpush b => exact Laws.EncodeFitsRow.rxpush b
  | decack => exact Laws.EncodeFitsRow.decack

/-- No two rows of the table have the same mnemonic. -/
theorem opcodeTable_mnemonic_inj : ∀ r ∈ opcodeTable, ∀ r' ∈ opcodeTable, r.mnemonic = r'.mnemonic → r = r' := by
  decide

/-- A word that fits a row is the word of a command with the row's mnemonic and the word's own operand fields. -/
theorem exists_command_of_fits {w : Word} {r : OpRow} (hr : r ∈ opcodeTable) (h : r.fits w = true) :
    ∃ i : Instr, fields w = i.fields ∧ i.mnemonic = r.mnemonic := by
  simp only [opcodeTable, List.mem_cons, List.not_mem_nil, or_false] at hr
  rcases hr with rfl | rfl | rfl | rfl | rfl | rfl | rfl | rfl | rfl
  · exact ⟨.nop, fields_of_fits_n h rfl, rfl⟩
  · exact ⟨.ckseed (fieldA w) (fieldB w), fields_of_fits_ab h rfl, rfl⟩
  · exact ⟨.ckbyte (fieldA w), fields_of_fits_a h rfl, rfl⟩
  · exact ⟨.encasn (fieldA w), fields_of_fits_a h rfl, rfl⟩
  · exact ⟨.encpoll, fields_of_fits_n h rfl, rfl⟩
  · refine ⟨.encmove (fieldPos w), ?_, rfl⟩
    obtain ⟨ha, hb⟩ := fieldPos_bytes w
    rw [Instr.fields, ← ha, ← hb]
    exact fields_of_fits_ab h rfl
  · exact ⟨.rxclr, fields_of_fits_n h rfl, rfl⟩
  · exact ⟨.rxpush (fieldA w), fields_of_fits_a h rfl, rfl⟩
  · exact ⟨.decack, fields_of_fits_n h rfl, rfl⟩

/-- Settles O3: the row that the command's own word fits is the one row with its mnemonic. -/
theorem decodeFollowsTheOpcodeTable : Obligations.DecodeFollowsTheOpcodeTable := by
  intro w r hr
  constructor
  · intro hfits
    obtain ⟨i, hi, hm⟩ := exists_command_of_fits hr hfits
    exact ⟨i, decode_eq_command_iff.mpr hi, hm⟩
  · rintro ⟨i, hi, hm⟩
    obtain ⟨r', hr', hm', hfits⟩ := encode_fits_row i
    rwa [encodeOfDecodeIsTheWord w i hi, opcodeTable_mnemonic_inj r' hr' r hr (hm'.trans hm)] at hfits

/-- Settles O4: both rows have the mnemonic of the one command that the word decodes to. -/
theorem opcodeTableRowsAreDisjoint : Obligations.OpcodeTableRowsAreDisjoint := by
  intro w r r' hr hr' hfits hfits'
  obtain ⟨i, hi, hm⟩ := (decodeFollowsTheOpcodeTable w r hr).mp hfits
  obtain ⟨i', hi', hm'⟩ := (decodeFollowsTheOpcodeTable w r' hr').mp hfits'
  obtain rfl : i = i' := Decoded.command.inj (hi.symm.trans hi')
  exact opcodeTable_mnemonic_inj r hr r' hr' (hm.symm.trans hm')

/-! ## Illegal words -/

/-- The opcodes of each format, and the unassigned ones as R74 lists them (R72). -/
theorem formatOf_cases (op : Byte) :
    (formatOf op = some .n ∧ (op = 0x00 ∨ op = 0x11 ∨ op = 0x20 ∨ op = 0x22)) ∨
      (formatOf op = some .a ∧ (op = 0x02 ∨ op = 0x10 ∨ op = 0x21)) ∨
      (formatOf op = some .ab ∧ op = 0x01) ∨ (formatOf op = some .p ∧ op = 0x12) ∨
      (formatOf op = none ∧
        ((0x03 ≤ op.toNat ∧ op.toNat ≤ 0x0F) ∨ (0x13 ≤ op.toNat ∧ op.toNat ≤ 0x1F) ∨ 0x23 ≤ op.toNat)) := by
  by_cases h : op ∈ opcodeFormats.map Prod.fst
  · simp only [opcodeFormats, List.map_cons, List.map_nil, List.mem_cons, List.not_mem_nil, or_false] at h
    rcases h with rfl | rfl | rfl | rfl | rfl | rfl | rfl | rfl | rfl <;> decide
  · have hnone : formatOf op = none := by
      rw [formatOf, List.lookup_eq_none_iff]
      intro q hq
      rw [bne_iff_ne]
      rintro rfl
      exact h (List.mem_map_of_mem hq)
    simp [opcodeFormats, ← BitVec.toNat_inj] at h
    refine .inr (.inr (.inr (.inr ⟨hnone, ?_⟩)))
    omega

/-! The three checks of R74 on an opcode of each format (R70). -/

theorem wordWellFormed_format_n {w : Word} (h : formatOf (fieldOp w) = some .n) :
    wordWellFormed w = true ↔ fieldRsv w = 0 ∧ fieldA w = 0 ∧ fieldB w = 0 := by
  simp [wordWellFormed, rsvClear, opcodeAssigned, unusedClear, h]

theorem wordWellFormed_format_a {w : Word} (h : formatOf (fieldOp w) = some .a) :
    wordWellFormed w = true ↔ fieldRsv w = 0 ∧ fieldB w = 0 := by
  simp [wordWellFormed, rsvClear, opcodeAssigned, unusedClear, h]

theorem wordWellFormed_format_ab {w : Word} (h : formatOf (fieldOp w) = some .ab) :
    wordWellFormed w = true ↔ fieldRsv w = 0 := by
  simp [wordWellFormed, rsvClear, opcodeAssigned, unusedClear, h]

theorem wordWellFormed_format_p {w : Word} (h : formatOf (fieldOp w) = some .p) :
    wordWellFormed w = true ↔ fieldRsv w = 0 := by
  simp [wordWellFormed, rsvClear, opcodeAssigned, unusedClear, h]

theorem wordWellFormed_format_none {w : Word} (h : formatOf (fieldOp w) = none) : wordWellFormed w = false := by
  simp [wordWellFormed, opcodeAssigned, h]

/-- The three checks of R74 refuse the words R74 lists, format by format. -/
theorem wordWellFormed_iff_not_illegalByR74 (w : Word) : wordWellFormed w = true ↔ ¬IllegalByR74 w := by
  unfold IllegalByR74
  obtain ⟨hf, hop⟩ | ⟨hf, hop⟩ | ⟨hf, hop⟩ | ⟨hf, hop⟩ | ⟨hf, hop⟩ := formatOf_cases (fieldOp w)
  · rw [wordWellFormed_format_n hf]
    rcases hop with hop | hop | hop | hop <;> simp [hop]
  · rw [wordWellFormed_format_a hf]
    rcases hop with hop | hop | hop <;> simp [hop]
  · rw [wordWellFormed_format_ab hf]
    simp [hop]
  · rw [wordWellFormed_format_p hf]
    simp [hop]
  · rw [wordWellFormed_format_none hf]
    simp
    omega

theorem wordWellFormed_of_fields {w : Word} {i : Instr} (h : fields w = i.fields) : wordWellFormed w = true := by
  obtain ⟨hop, ha, hb, hrsv⟩ := fields_eq_mk_iff.mp h
  unfold wordWellFormed rsvClear opcodeAssigned unusedClear
  rw [hop, ha, hb, hrsv]
  cases i <;> rfl

/-- A word that passes the checks of R74 is the word of the command of its opcode. -/
theorem exists_command_of_wordWellFormed {w : Word} (h : wordWellFormed w = true) :
    ∃ i : Instr, fields w = i.fields := by
  obtain ⟨hf, hop⟩ | ⟨hf, hop⟩ | ⟨hf, hop⟩ | ⟨hf, hop⟩ | ⟨hf, -⟩ := formatOf_cases (fieldOp w)
  · obtain ⟨hrsv, ha, hb⟩ := (wordWellFormed_format_n hf).mp h
    obtain hop | hop | hop | hop := hop
    · exact ⟨.nop, fields_eq_mk_iff.mpr ⟨hop, ha, hb, hrsv⟩⟩
    · exact ⟨.encpoll, fields_eq_mk_iff.mpr ⟨hop, ha, hb, hrsv⟩⟩
    · exact ⟨.rxclr, fields_eq_mk_iff.mpr ⟨hop, ha, hb, hrsv⟩⟩
    · exact ⟨.decack, fields_eq_mk_iff.mpr ⟨hop, ha, hb, hrsv⟩⟩
  · obtain ⟨hrsv, hb⟩ := (wordWellFormed_format_a hf).mp h
    obtain hop | hop | hop := hop
    · exact ⟨.ckbyte _, fields_eq_mk_iff.mpr ⟨hop, rfl, hb, hrsv⟩⟩
    · exact ⟨.encasn _, fields_eq_mk_iff.mpr ⟨hop, rfl, hb, hrsv⟩⟩
    · exact ⟨.rxpush _, fields_eq_mk_iff.mpr ⟨hop, rfl, hb, hrsv⟩⟩
  · exact ⟨.ckseed _ _, fields_eq_mk_iff.mpr ⟨hop, rfl, rfl, (wordWellFormed_format_ab hf).mp h⟩⟩
  · obtain ⟨ha, hb⟩ := fieldPos_bytes w
    exact ⟨.encmove _, fields_eq_mk_iff.mpr ⟨hop, ha, hb, (wordWellFormed_format_p hf).mp h⟩⟩
  · exact absurd h (by simp [wordWellFormed_format_none hf])

/-- The decoder takes exactly the words that pass the checks of R74. -/
theorem exists_decode_command_iff (w : Word) : (∃ i, decode w = .command i) ↔ wordWellFormed w = true := by
  simp only [decode_eq_command_iff]
  exact ⟨fun ⟨_, h⟩ => wordWellFormed_of_fields h, exists_command_of_wordWellFormed⟩

/-- A word is illegal when it is no command (R73). -/
theorem exists_decode_illegal_iff (w : Word) : (∃ why, decode w = .illegal why) ↔ ¬∃ i, decode w = .command i := by
  cases decode w <;> simp

/-- Settles O5: the decoder and the checks accept the same words, and the checks refuse those of R74's list. -/
theorem illegalWordsAreThoseOfR74 : Obligations.IllegalWordsAreThoseOfR74 := by
  intro w
  have hwf := wordWellFormed_iff_not_illegalByR74 w
  rw [exists_decode_illegal_iff, exists_decode_command_iff, hwf, not_not]
  exact ⟨Iff.rfl, Iff.rfl⟩

end Sys2Proof

namespace Sys2Proof.Machine

/-- Settles O8: the write stands at `CMD`, and its word is a command exactly when R74 does not list it. -/
theorem illegalWordRaisesAndChangesNothingElse : Obligations.IllegalWordRaisesAndChangesNothingElse := by
  intro s w rest hs hp
  obtain ⟨hillegal, hwf⟩ := illegalWordsAreThoseOfR74 w
  constructor
  · intro h
    obtain ⟨why, hd⟩ := hillegal.mpr h
    rw [step_write hs hp rfl (by decide), writeAt_zero, writeCmd_illegal hd, State.pop_of_pending hp]
    rfl
  · intro h
    obtain ⟨i, hd⟩ := (exists_decode_command_iff w).mpr (hwf.mpr h)
    exact ⟨i, stepRunsTheDecodedCommand s w i rest hs hp hd⟩

end Sys2Proof.Machine

/-! SUPPORT. The frames of the encode commands (30_encoding.md R79 to R87, 41_codec.md R99 to R102). -/

namespace Sys2Proof.Machine

/-! ## The length byte -/

/-- The byte at frame offset 2 (R79). -/
theorem byteAt_frame_two (p : Params) (payload : List Byte) : byteAt (frame p payload) 2 = lenByte p payload := rfl

/-- A payload of the codec is short enough for its length byte to hold the sum (R80). -/
theorem lenByte_toNat {p : Params} (hp : p.Legal) {payload : List Byte} (h : payload.length ≤ 15) :
    (lenByte p payload).toNat = payload.length + p.lenAdj := by
  have hadj := hp.lenAdj
  rw [lenByte, BitVec.toNat_ofNat]
  omega

/-- The length byte after `write_frame` of a frame (R99, R80). -/
theorem writeFrame_lenByte_toNat {p : Params} (hp : p.Legal) {payload : List Byte} (h : payload.length ≤ 15)
    (k : Block) : (byteAt (k.writeFrame p (frame p payload)).txbuf 2).toNat = payload.length + p.lenAdj := by
  have hcap := hp.txCap
  rw [Block.writeFrame, Block.setAcc_txbuf, Block.setTx_txbuf, byteAt_padTo _ (by omega), byteAt_frame_two,
    lenByte_toNat hp h]

/-- Settles O42, from the length byte of a frame and the lengths of the two payloads. -/
theorem lengthByteAtAnyParameters : Obligations.LengthByteAtAnyParameters := by
  intro p n pos k hp
  exact ⟨writeFrame_lenByte_toNat hp (by simp) k, writeFrame_lenByte_toNat hp (by simp) k,
    writeFrame_lenByte_toNat hp (by simp) k⟩

/-! ## The assign frame -/

/-- A byte and its complement, as `asn_payload` sends them (R83), sum to 0xFF. -/
theorem add_xor_allOnes (n : Byte) : n + (n ^^^ 0xFF) = 0xFF := by
  have h : n ^^^ 0xFF = ~~~n := BitVec.xor_allOnes
  rw [h]
  exact BitVec.add_not_self n

theorem xor_xor_allOnes (n : Byte) : n ^^^ (n ^^^ 0xFF) = 0xFF := by
  rw [← BitVec.xor_assoc, BitVec.xor_self, BitVec.zero_xor]

/-- The trailer of the assign frame is the same for every operand (R86). -/
theorem trailer_asnPayload (n : Byte) : trailer (asnPayload n) = [0xA8, 0x55] := by
  have hadd : ckAdd (asnPayload n) seedAdd = ckAdd asnHdr seedAdd + (n + (n ^^^ 0xFF)) := BitVec.add_assoc _ _ _
  have hxor : ckXor (asnPayload n) seedXor = ckXor asnHdr seedXor ^^^ (n ^^^ (n ^^^ 0xFF)) := BitVec.xor_assoc _ _ _
  rw [trailer, hadd, hxor, add_xor_allOnes, xor_xor_allOnes]
  rfl

/-- The frame of R86. -/
theorem frame_asnPayload (n : Byte) : frame Params.hw (asnPayload n) =
    [0xD5, 0x82, 0x06, 0x00, 0x00, 0xAA, 0x55, n, n ^^^ 0xFF, 0xA8, 0x55] := by
  rw [frame, trailer_asnPayload]
  rfl

/-- Settles O21: the frame of R86 fits in `TXBUF`, with zeros after it. -/
theorem encasnBuildsTheAssignFrame : Obligations.EncasnBuildsTheAssignFrame := by
  intro n s
  rw [exec_eq, State.onBlock, runCommand, Block.encasn, frame_asnPayload, Block.writeFrame, padTo_eq_append (by simp)]
  rfl

end Sys2Proof.Machine

/-! SUPPORT. The assembler: the words of its lines (30_encoding.md R77), and what runs of the expansions leave
(R78). -/

namespace Sys2Proof.Machine

/-! ## Operands in range and out of range -/

theorem asmByte_of_le {n : Nat} (h : n ≤ 255) : asmByte n = .ok (BitVec.ofNat 8 n) := if_pos h

theorem asmByte_of_lt {n : Nat} (h : 255 < n) : asmByte n = .error (.outOfRange n) := if_neg (Nat.not_le.mpr h)

theorem asmHalf_of_le {n : Nat} (h : n ≤ 65535) : asmHalf n = .ok (BitVec.ofNat 16 n) := if_pos h

theorem asmHalf_of_lt {n : Nat} (h : 65535 < n) : asmHalf n = .error (.outOfRange n) := if_neg (Nat.not_le.mpr h)

@[simp] theorem asmByte_toNat (b : Byte) : asmByte b.toNat = .ok b := by
  rw [asmByte_of_le (Nat.le_of_lt_succ b.isLt), BitVec.ofNat_toNat, BitVec.setWidth_eq]

@[simp] theorem asmHalf_toNat (p : Half) : asmHalf p.toNat = .ok p := by
  rw [asmHalf_of_le (Nat.le_of_lt_succ p.isLt), BitVec.ofNat_toNat, BitVec.setWidth_eq]

/-- Bytes written out as numbers are all in range, and come back in order. -/
@[simp] theorem asmBytes_map_toNat (bs : List Byte) : asmBytes (bs.map BitVec.toNat) = .ok bs := by
  induction bs with
  | nil => rfl
  | cons b bs ih =>
    rw [List.map_cons, asmBytes, asmByte_toNat, ih]
    rfl

/-! ## The words of R77's table as numbers -/

theorem toNat_ofNat_of_lt {w n : Nat} (h : n < 2 ^ w) : (BitVec.ofNat w n).toNat = n := by
  rw [BitVec.toNat_ofNat, Nat.mod_eq_of_lt h]

theorem eq_ofNat_of_toNat_eq {w : Word} {n : Nat} (h : w.toNat = n) : w = BitVec.ofNat 32 n := by
  rw [← h, BitVec.ofNat_toNat, BitVec.setWidth_eq]

theorem encode_ckseed_ofNat {a b : Nat} (ha : a ≤ 255) (hb : b ≤ 255) :
    encode (.ckseed (BitVec.ofNat 8 a) (BitVec.ofNat 8 b)) = BitVec.ofNat 32 (b * 65536 + a * 256 + 0x01) :=
  eq_ofNat_of_toNat_eq (by
    rw [encode_ckseed_toNat, toNat_ofNat_of_lt (n := a) (by omega), toNat_ofNat_of_lt (n := b) (by omega)])

theorem encode_ckbyte_ofNat {a : Nat} (ha : a ≤ 255) :
    encode (.ckbyte (BitVec.ofNat 8 a)) = BitVec.ofNat 32 (a * 256 + 0x02) :=
  eq_ofNat_of_toNat_eq (by rw [encode_ckbyte_toNat, toNat_ofNat_of_lt (Nat.lt_succ_of_le ha)])

theorem encode_encasn_ofNat {a : Nat} (ha : a ≤ 255) :
    encode (.encasn (BitVec.ofNat 8 a)) = BitVec.ofNat 32 (a * 256 + 0x10) :=
  eq_ofNat_of_toNat_eq (by rw [encode_encasn_toNat, toNat_ofNat_of_lt (Nat.lt_succ_of_le ha)])

theorem encode_rxpush_ofNat {a : Nat} (ha : a ≤ 255) :
    encode (.rxpush (BitVec.ofNat 8 a)) = BitVec.ofNat 32 (a * 256 + 0x21) :=
  eq_ofNat_of_toNat_eq (by rw [encode_rxpush_toNat, toNat_ofNat_of_lt (Nat.lt_succ_of_le ha)])

theorem encode_encmove_ofNat {p : Nat} (hp : p ≤ 65535) :
    encode (.encmove (BitVec.ofNat 16 p)) = BitVec.ofNat 32 (p * 256 + 0x12) :=
  eq_ofNat_of_toNat_eq (by rw [encode_encmove_toNat, toNat_ofNat_of_lt (Nat.lt_succ_of_le hp)])

/-- Settles O50: an operand in range goes to its field, the first one out of range is the error. -/
theorem assemblerSpellsTheTableOfWords : Obligations.AssemblerSpellsTheTableOfWords := by
  intro a b p words
  refine ⟨rfl, rfl, rfl, rfl, fun ha hb => ?_, fun ha => ?_, fun hp => ?_, fun ha => ?_, fun ha hb => ?_, fun hp => ?_⟩
  · simp only [words, AsmLine.expand, asmByte_of_le ha, asmByte_of_le hb, ← encode_ckseed_ofNat ha hb]
    rfl
  · simp only [words, AsmLine.expand, asmByte_of_le ha, ← encode_ckbyte_ofNat ha, ← encode_encasn_ofNat ha,
      ← encode_rxpush_ofNat ha]
    exact ⟨rfl, rfl, rfl⟩
  · simp only [words, AsmLine.expand, asmHalf_of_le hp, ← encode_encmove_ofNat hp]
    rfl
  · simp only [words, AsmLine.expand, asmByte_of_lt ha]
    exact ⟨rfl, rfl, rfl, rfl⟩
  · simp only [words, AsmLine.expand, asmByte_of_le ha, asmByte_of_lt hb]
    rfl
  · simp only [words, AsmLine.expand, asmHalf_of_lt hp]
    rfl

/-! ## The pseudo-instructions -/

theorem expand_cksum (bs : List Byte) :
    AsmLine.expand (.cksum (bs.map BitVec.toNat)) = .ok (.ckseed 0xAA 0x55 :: bs.map .ckbyte) := by
  rw [AsmLine.expand, asmBytes_map_toNat]
  rfl

theorem expand_rxload (bs : List Byte) :
    AsmLine.expand (.rxload (bs.map BitVec.toNat)) = .ok (.rxclr :: bs.map .rxpush) := by
  rw [AsmLine.expand, asmBytes_map_toNat]
  rfl

theorem expand_encpos (p : Half) : AsmLine.expand (.encpos p.toNat) = .ok [.encmove p] := by
  rw [AsmLine.expand, asmHalf_toNat]
  rfl

/-! ## Runs of the expansions -/

/-- The words of any commands at the port run their rules in order, and nothing is left waiting. -/
theorem run_all_commandWrites {is : List Instr} {s : State} (hs : s.started = true)
    (hp : s.pending = commandWrites is) :
    run is.length s = .next { s with pending := [], block := runCommands Params.hw is s.block } :=
  run_commandWrites hs (fun i _ => decodeOfEncodeIsTheCommand i) (by rw [hp, List.append_nil])

/-- One `CKBYTE` per byte folds the bytes into the accumulators, and changes nothing else but `ERR` (R97, R98). -/
theorem runCommands_ckbytes (p : Params) (bs : List Byte) (k : Block) :
    runCommands p (bs.map .ckbyte) (k.setErr 0) = (k.setAcc (ckAdd bs k.accAdd) (ckXor bs k.accXor)).setErr 0 := by
  induction bs generalizing k with
  | nil => rfl
  | cons b bs ih => exact ih (k.setAcc (k.accAdd + b) (k.accXor ^^^ b))

/-- `CKSEED` and one `CKBYTE` per byte leave the two checksums of the bytes in the accumulators (R98). -/
theorem runCommands_ckseed_ckbytes (p : Params) (sa sx : Byte) (bs : List Byte) (k : Block) :
    runCommands p (.ckseed sa sx :: bs.map .ckbyte) k = (k.setAcc (ckAdd bs sa) (ckXor bs sx)).setErr 0 :=
  runCommands_ckbytes p bs (k.setAcc sa sx)

/-- The bytes that fit in the receive buffer are its first ones. -/
theorem take_length_padTo {cap : Nat} {bs : List Byte} (h : bs.length ≤ cap) : (padTo cap bs).take bs.length = bs := by
  rw [padTo_eq_append h, List.take_left]

/-- Settles O51: the expansions, and the block after a run of `cksum`'s and of `rxload`'s. -/
theorem pseudoInstructionsExpandAsR78Says : Obligations.PseudoInstructionsExpandAsR78Says := by
  refine ⟨rfl, rfl, rfl, expand_encpos, fun bs s hs => ⟨⟨_, expand_cksum bs, rfl, fun hp => ?_⟩,
    fun _ => ⟨_, expand_rxload bs, rfl, fun hlen hp => ?_⟩⟩⟩
  · refine ⟨_, run_all_commandWrites hs hp, ?_⟩
    rw [runCommands_ckseed_ckbytes]
    exact ⟨rfl, rfl⟩
  · refine ⟨_, run_all_commandWrites hs hp, ?_⟩
    have hload := runCommands_rxload (p := Params.hw) (by decide) bs s.block
    rw [rxloadCommands] at hload
    rw [hload, receive_rxcnt_toNat (by decide)]
    exact ⟨take_length_padTo hlen, Nat.min_eq_left hlen⟩

end Sys2Proof.Machine

/-! SUPPORT. The checksum functions on sequences (40_checksum.md R91 to R94) and the commands that stream them (R96
to R98). -/

namespace Sys2Proof.Machine

/-! ## Sequences in parts and in another order -/

/-- The sum over a concatenation runs on from the sum of its first part. -/
theorem ckAdd_append (bs cs : List Byte) (s : Byte) : ckAdd (bs ++ cs) s = ckAdd cs (ckAdd bs s) :=
  List.foldl_append

theorem ckXor_append (bs cs : List Byte) (s : Byte) : ckXor (bs ++ cs) s = ckXor cs (ckXor bs s) :=
  List.foldl_append

/-- Addition mod 256 is commutative and associative, so the order of the bytes does not matter. -/
theorem ckAdd_perm {bs cs : List Byte} (h : bs.Perm cs) (s : Byte) : ckAdd bs s = ckAdd cs s := h.foldl_eq s

theorem ckXor_perm {bs cs : List Byte} (h : bs.Perm cs) (s : Byte) : ckXor bs s = ckXor cs s := h.foldl_eq s

/-! ## Closed forms -/

/-- Masking after each addition is masking once at the end (R94). -/
theorem ckAdd_toNat (bs : List Byte) (s : Byte) :
    (ckAdd bs s).toNat = (s.toNat + (bs.map BitVec.toNat).sum) % 256 := by
  induction bs generalizing s with
  | nil => exact (Nat.mod_eq_of_lt s.isLt).symm
  | cons b bs ih =>
    calc (ckAdd (b :: bs) s).toNat
      _ = (ckAdd bs (s + b)).toNat := rfl
      _ = ((s + b).toNat + (bs.map BitVec.toNat).sum) % 256 := ih (s + b)
      _ = ((s.toNat + b.toNat) % 256 + (bs.map BitVec.toNat).sum) % 256 := by rw [BitVec.toNat_add]
      _ = (s.toNat + ((b :: bs).map BitVec.toNat).sum) % 256 := by
        rw [Nat.mod_add_mod, List.map_cons, List.sum_cons, Nat.add_assoc]

/-- The exclusive or may be taken from either end. -/
theorem ckXor_eq_foldr (bs : List Byte) (s : Byte) : ckXor bs s = bs.foldr (fun b acc => b ^^^ acc) s :=
  List.foldl_eq_foldr

/-! ## Bytes that cancel -/

theorem ckXor_pair_self (x s : Byte) : ckXor [x, x] s = s :=
  calc s ^^^ x ^^^ x
    _ = s ^^^ (x ^^^ x) := BitVec.xor_assoc s x x
    _ = s := by rw [BitVec.xor_self, BitVec.xor_zero]

/-- The complement of a byte to 0x100 is its negation mod 256. -/
theorem ofNat_complement_eq_neg (x : Byte) : BitVec.ofNat 8 (0x100 - x.toNat) = -x := rfl

theorem ckAdd_pair_complement (x s : Byte) : ckAdd [x, BitVec.ofNat 8 (0x100 - x.toNat)] s = s :=
  calc s + x + BitVec.ofNat 8 (0x100 - x.toNat)
    _ = s + (x + -x) := by rw [ofNat_complement_eq_neg, BitVec.add_assoc]
    _ = s := by rw [BitVec.add_right_neg, BitVec.add_zero]

/-- Settles O33, from one lemma per clause; a pair at the end of a sequence cancels whatever comes before it. -/
theorem checksumClosedForms : Obligations.ChecksumClosedForms := by
  intro bs cs s x
  have hxor : ckXor (bs ++ [x, x]) s = ckXor bs s := by rw [ckXor_append, ckXor_pair_self]
  have hadd : ckAdd (bs ++ [x, BitVec.ofNat 8 (0x100 - x.toNat)]) s = ckAdd bs s := by
    rw [ckAdd_append, ckAdd_pair_complement]
  exact ⟨ckAdd_toNat bs s, ckXor_eq_foldr bs s, rfl, rfl, fun h => ⟨ckAdd_perm h s, ckXor_perm h s⟩, hxor,
    fun _ => hadd, ckAdd_append bs cs s, ckXor_append bs cs s⟩

/-! ## The commands -/

/-- Settles O19: a command is its rule on the block (R96). -/
theorem ckseedLoadsBothAccumulators : Obligations.CkseedLoadsBothAccumulators := by
  intro sa sx s
  exact exec_eq (.ckseed sa sx) s

/-- Settles O20: the rule of `CKBYTE` writes the sum and the exclusive or of the byte and the accumulators (R97). -/
theorem ckbyteFoldsTheByte : Obligations.CkbyteFoldsTheByte := by
  intro b s
  exact ⟨_, exec_eq (.ckbyte b) s, BitVec.toNat_add s.block.accAdd b,
    fun _ => BitVec.getLsbD_xor (x := s.block.accXor) (y := b), rfl⟩

/-- Settles O34: the words decode to their commands, and those fold the bytes one after the other. -/
theorem streamingComputesTheChecksums : Obligations.StreamingComputesTheChecksums := by
  intro sa sx bs rest s hs hp
  have hlen : (Instr.ckseed sa sx :: bs.map .ckbyte).length = bs.length + 1 := by simp
  rw [← hlen, run_commandWrites hs (fun i _ => decodeOfEncodeIsTheCommand i) hp, runCommands_ckseed_ckbytes]
  rfl

end Sys2Proof.Machine

/-! SUPPORT. The position frames (30_encoding.md R84, R87, 41_codec.md R101 to R104). -/

namespace Sys2Proof.Machine

/-! ## The two bytes of a position -/

theorem posLo_eq_ofNat (p : Half) : posLo p = BitVec.ofNat 8 (p.toNat % 256) := by
  rw [← posLo_toNat, BitVec.ofNat_toNat, BitVec.setWidth_eq]

theorem posHi_eq_ofNat (p : Half) : posHi p = BitVec.ofNat 8 (p.toNat / 256) := by
  rw [← posHi_toNat, BitVec.ofNat_toNat, BitVec.setWidth_eq]

/-! ## The trailer: the zero fill of R84 leaves both checksums as they are -/

theorem ckAdd_replicate_zero (n : Nat) (s : Byte) : ckAdd (List.replicate n 0) s = s := by
  induction n with
  | zero => rfl
  | succ n ih => exact (congrArg _ (BitVec.add_zero s)).trans ih

theorem ckXor_replicate_zero (n : Nat) (s : Byte) : ckXor (List.replicate n 0) s = s := by
  induction n with
  | zero => rfl
  | succ n ih => exact (congrArg _ (BitVec.xor_zero (x := s))).trans ih

/-- The checksums of a position payload are those of its header `[0x01, 0x00, RESPOND]`, folded on over the options
and position bytes. -/
theorem trailer_posPayload (opt : Byte) (p : Half) :
    trailer (posPayload opt p) = [0xAC + opt + posLo p + posHi p, 0x55 ^^^ opt ^^^ posLo p ^^^ posHi p] := by
  rw [trailer, posPayload, ckAdd_append, ckXor_append, ckAdd_replicate_zero, ckXor_replicate_zero]
  rfl

/-- R102's closed form of the additive checksum of `MoveTo`. -/
theorem add_bytes_eq_ofNat (lo hi : Byte) :
    0xAC + optMove + lo + hi = BitVec.ofNat 8 (0xAD + lo.toNat + hi.toNat) := by
  simp only [BitVec.ofNat_add, BitVec.ofNat_toNat, BitVec.setWidth_eq]
  rfl

/-! ## The frame -/

/-- R87's frame for an options byte and the two bytes of a position. -/
def posFrame (opt lo hi : Byte) : List Byte :=
  [0xD5, 0x82, 0x0F, 0x01, 0x00, 0x01, opt, lo, hi] ++ List.replicate 9 0 ++
    [0xAC + opt + lo + hi, 0x55 ^^^ opt ^^^ lo ^^^ hi]

@[simp] theorem posFrame_length (opt lo hi : Byte) : (posFrame opt lo hi).length = 20 := rfl

theorem frame_posPayload (opt : Byte) (p : Half) :
    frame Params.hw (posPayload opt p) = posFrame opt (posLo p) (posHi p) := by
  rw [frame, trailer_posPayload]
  rfl

/-- R102's frame of `MoveTo`. -/
theorem posFrame_move (lo hi : Byte) : posFrame optMove lo hi =
    [0xD5, 0x82, 0x0F, 0x01, 0x00, 0x01, 0x01, lo, hi] ++ List.replicate 9 0 ++
      [BitVec.ofNat 8 (0xAD + lo.toNat + hi.toNat), 0x54 ^^^ lo ^^^ hi] := by
  rw [posFrame, add_bytes_eq_ofNat]
  rfl

/-- The options and position bytes stand at frame offsets 6 to 8; only the trailer depends on them beside (R104). -/
theorem byteAt_posFrame_congr (opt lo hi opt' lo' hi' : Byte) {i : Nat} (h : i < 6 ∨ 9 ≤ i ∧ i < 18) :
    byteAt (posFrame opt lo hi) i = byteAt (posFrame opt' lo' hi') i := by
  obtain h | ⟨hge, hlt⟩ := h
  · interval_cases i <;> rfl
  · interval_cases i <;> rfl

/-- `write_frame` of a position frame (R99): the frame with zeros after it, its length, and its trailer in the
accumulators. -/
theorem writeFrame_posPayload (opt : Byte) (p : Half) (k : Block) :
    k.writeFrame Params.hw (frame Params.hw (posPayload opt p)) =
      (k.setTx (posFrame opt (posLo p) (posHi p) ++ List.replicate 12 0) 20).setAcc
        (0xAC + opt + posLo p + posHi p) (0x55 ^^^ opt ^^^ posLo p ^^^ posHi p) := by
  rw [frame_posPayload, Block.writeFrame, padTo_eq_append (by simp)]
  rfl

/-- Settles O22: the position frame whose options and position bytes are all 0. -/
theorem encpollBuildsThePollFrame : Obligations.EncpollBuildsThePollFrame := by
  intro s
  rw [exec_eq, State.onBlock, runCommand, Block.encpoll, writeFrame_posPayload]
  rfl

/-- Settles O23: the position frame of `MoveTo`, its trailer in R102's closed form. -/
theorem encmoveBuildsTheMoveFrame : Obligations.EncmoveBuildsTheMoveFrame := by
  intro p s lo hi add xor
  rw [exec_eq, State.onBlock, runCommand, Block.encmove, writeFrame_posPayload, posFrame_move, add_bytes_eq_ofNat,
    posLo_eq_ofNat, posHi_eq_ofNat]
  rfl

theorem encpoll_txbuf (k : Block) :
    (runCommand Params.hw .encpoll k).txbuf = padTo 32 (posFrame optPoll (posLo 0) (posHi 0)) :=
  congrArg (padTo 32) (frame_posPayload optPoll 0)

theorem encmove_txbuf (p : Half) (k : Block) :
    (runCommand Params.hw (.encmove p) k).txbuf = padTo 32 (posFrame optMove (posLo p) (posHi p)) :=
  congrArg (padTo 32) (frame_posPayload optMove p)

/-- Settles O32: both are position frames, and those agree outside the options and position bytes. -/
theorem pollAndMoveDifferOnlyInOptionsAndPosition : Obligations.PollAndMoveDifferOnlyInOptionsAndPosition := by
  intro p s
  refine ⟨_, _, exec_eq .encpoll s, exec_eq (.encmove p) s, fun i hi h6 h7 h8 => ?_⟩
  rw [State.onBlock_block, State.onBlock_block, encpoll_txbuf, encmove_txbuf, byteAt_padTo _ (by omega),
    byteAt_padTo _ (by omega)]
  exact byteAt_posFrame_congr _ _ _ _ _ _ (by omega)

end Sys2Proof.Machine

/-! SUPPORT. A whole exchange of a host that keeps its duties (60_exceptions.md R139): the flags of an
acknowledgement, the receive exchange, the status reads, and the run of them all. -/

namespace Sys2Proof.Machine

/-! ## The flags of an acknowledgement -/

/-- The mask of one bit tests that bit. -/
theorem flagSet_twoPow (f : Byte) {i : Nat} (h : i < 8) : flagSet f (BitVec.twoPow 8 i) = f.getLsbD i := by
  have hne : BitVec.twoPow 8 i ≠ 0 := fun h0 => by simpa [h] using congrArg (BitVec.getLsbD · i) h0
  rw [flagSet, BitVec.and_twoPow]
  cases f.getLsbD i with
  | false => rfl
  | true => exact bne_iff_ne.mpr hne

/-- The union of two masks tests whether one of them hits. -/
theorem flagSet_or (f a b : Byte) : flagSet f (a ||| b) = (flagSet f a || flagSet f b) := by
  rw [flagSet, BitVec.and_or_distrib_left, Bool.eq_iff_iff]
  simp [flagSet, BitVec.or_eq_zero_iff, ← not_and_or]

/-- R110. -/
theorem engagedOf_eq (f : Byte) : engagedOf f = f.getLsbD 0 := flagSet_twoPow f (i := 0) (by decide)

/-- R111. -/
theorem slippingOf_eq (f : Byte) : slippingOf f = f.getLsbD 1 := flagSet_twoPow f (i := 1) (by decide)

/-- R112: the alarm mask of this hardware is the union of the two others. -/
theorem alarmOf_hw (f : Byte) : alarmOf Params.hw f = (f.getLsbD 0 || f.getLsbD 1) := by
  rw [← engagedOf_eq, ← slippingOf_eq]
  exact flagSet_or f engagedMask slipMask

/-- The two low bits as a number. -/
theorem lowBits_toNat (f : Byte) : (f.getLsbD 0).toNat + 2 * (f.getLsbD 1).toNat = f.toNat % 4 := by
  simp only [BitVec.getLsbD, Nat.toNat_testBit]
  omega

/-- The three flags in bits 2:0 of `ACKFLAGS` (R45), from the flag byte. -/
theorem flagBits_toNat (f : Byte) :
    (engagedOf f).toNat + 2 * (slippingOf f).toNat + 4 * (alarmOf Params.hw f).toNat =
      f.toNat % 4 + (if f.toNat % 4 = 0 then 0 else 4) := by
  rw [engagedOf_eq, slippingOf_eq, alarmOf_hw, ← lowBits_toNat]
  cases f.getLsbD 0 <;> cases f.getLsbD 1 <;> rfl

/-! ## The receive exchange -/

/-- The fields stand below offset 10, so the buffer has the fields of the bytes it holds (R88). -/
theorem ackFields_padTo {cap : Nat} (hcap : 10 ≤ cap) (p : Params) (bs : List Byte) (cnt : Byte) :
    ackFields p (padTo cap bs) cnt = ackFields p bs cnt := by
  have hbyte : ∀ i, i < 10 → byteAt (padTo cap bs) i = byteAt bs i := fun i hi =>
    byteAt_padTo bs (Nat.lt_of_lt_of_le hi hcap)
  simp only [ackFields, ackFlagsAt, ackPosLoAt, ackPosHiAt, ackVoltAt, ackTorqAt, hbyte 5 (by decide),
    hbyte 6 (by decide), hbyte 7 (by decide), hbyte 8 (by decide), hbyte 9 (by decide)]

/-- `RXCLR`, one `RXPUSH` per byte and `DECACK` decode the fields of a reply of 10 to 16 bytes (R116, R139). -/
theorem runCommands_receiveExchange {bs : List Byte} (hmin : 10 ≤ bs.length) (hmax : bs.length ≤ 16) (k : Block) :
    runCommands Params.hw (receiveExchange bs) k =
      (((k.receive Params.hw bs).setRawcnt (BitVec.ofNat 8 bs.length)).setAck
        (ackFields Params.hw bs (BitVec.ofNat 8 bs.length))).setErr 0 := by
  have hcnt : (k.receive Params.hw bs).rxcnt = BitVec.ofNat 8 bs.length := by rw [receive_of_le hmax]; rfl
  have hbuf : (k.receive Params.hw bs).rxbuf = padTo 16 bs := rfl
  have hlen : 10 ≤ (k.receive Params.hw bs).rxcnt.toNat := by
    rw [receive_rxcnt_toNat (by decide), Params.hw_rxCap]
    omega
  rw [receiveExchange, runCommands_append, runCommands_rxload (by decide), runCommands_cons, runCommands_nil,
    runCommand, decack_hw_of_le hlen, hcnt, hbuf, ackFields_padTo (by decide)]

/-- An `ENCMOVE` after the `RXCLR` of a receive exchange may as well come before it: beside `ERR`, which each
sets to 0, the two write different elements (R102, R114). -/
theorem runCommands_receive_after_encmove (p : Half) (bs : List Byte) (k : Block) :
    runCommands Params.hw (bs.map .rxpush ++ [.decack]) (runCommands Params.hw [.rxclr, .encmove p] k) =
      runCommands Params.hw (receiveExchange bs) (runCommand Params.hw (.encmove p) k) := rfl

/-! ## The status reads -/

/-- The offsets of `statusReads`. -/
def statusOffsets : List Nat := [0x004, 0x018, 0x01C, 0x020, 0x024, 0x028]

theorem statusReads_eq_map : statusReads = statusOffsets.map (.read 4) := rfl

theorem statusOffsets_admitted : ∀ off ∈ statusOffsets, off % 4 = 0 ∧ off ≤ 0x3FC := by decide

theorem map_readAt_statusOffsets (k : Block) : statusOffsets.map (k.readAt Params.hw) =
    [k.statusWord, zextHalf k.ackPos, zextByte k.ackVolt, zextByte k.ackTorq, k.ackFlagsWord,
      zextByte k.ackRawcnt] := rfl

/-- `STATUS` with a valid status and no error (R37). -/
theorem statusWord_of_valid {k : Block} (hvalid : k.ackValid = true) (herr : k.err = 0) : k.statusWord = 0x10 :=
  eq_ofNat_of_toNat_eq (by rw [statusWord_toNat, hvalid, herr]; rfl)

/-- `ACKFLAGS` of a decoded status (R45). -/
theorem ackFlagsWord_setAck (bs : List Byte) (cnt : Byte) (k : Block) :
    (k.setAck (ackFields Params.hw bs cnt)).ackFlagsWord =
      BitVec.ofNat 32 ((byteAt bs 5).toNat % 4 + (if (byteAt bs 5).toNat % 4 = 0 then 0 else 4)
        + 256 * (byteAt bs 5).toNat) :=
  eq_ofNat_of_toNat_eq (by rw [ackFlagsWord_toNat, ← flagBits_toNat]; rfl)

theorem zextHalf_posOfBytes (lo hi : Byte) :
    zextHalf (posOfBytes lo hi) = BitVec.ofNat 32 (hi.toNat * 256 + lo.toNat) :=
  eq_ofNat_of_toNat_eq (by rw [zextHalf_toNat, posOfBytes_toNat])

theorem zextByte_ofNat {n : Nat} (h : n < 256) : zextByte (BitVec.ofNat 8 n) = BitVec.ofNat 32 n :=
  eq_ofNat_of_toNat_eq (by rw [zextByte_toNat, toNat_ofNat_of_lt h])

/-- What a host reads of the status that a receive exchange has decoded (R37, R42 to R46). -/
theorem map_readAt_statusOffsets_receiveExchange {bs : List Byte} (hmin : 10 ≤ bs.length) (hmax : bs.length ≤ 16)
    (k : Block) : statusOffsets.map ((runCommands Params.hw (receiveExchange bs) k).readAt Params.hw) =
      [0x10, BitVec.ofNat 32 ((byteAt bs 7).toNat * 256 + (byteAt bs 6).toNat), zextByte (byteAt bs 8),
        zextByte (byteAt bs 9),
        BitVec.ofNat 32 ((byteAt bs 5).toNat % 4 + (if (byteAt bs 5).toNat % 4 = 0 then 0 else 4)
          + 256 * (byteAt bs 5).toNat),
        BitVec.ofNat 32 bs.length] := by
  rw [runCommands_receiveExchange hmin hmax, map_readAt_statusOffsets, statusWord_of_valid rfl rfl,
    ← ackFlagsWord_setAck bs (BitVec.ofNat 8 bs.length) (k.receive Params.hw bs), ← zextHalf_posOfBytes,
    ← zextByte_ofNat (by omega)]
  rfl

/-! ## The exchange -/

/-- A run of commands and then of reads: the host gets the values that the commands have left. -/
theorem run_commands_reads {is : List Instr} {offs : List Nat} {rest : List Transaction} {s : State}
    (hs : s.started = true) (hadm : ∀ off ∈ offs, off % 4 = 0 ∧ off ≤ 0x3FC)
    (hp : s.pending = commandWrites is ++ (offs.map (.read 4) ++ rest)) :
    run (is.length + offs.length) s = .next { s with
      pending := rest
      block := runCommands Params.hw is s.block
      replies := s.replies ++ offs.map ((runCommands Params.hw is s.block).readAt Params.hw) } := by
  rw [run_add_of_next _ _ (run_commandWrites hs (fun i _ => decodeOfEncodeIsTheCommand i) hp)]
  exact run_reads hs hadm rfl

/-- The values of the frame reads after `ENCMOVE`: the length and the 20 bytes of the frame (R102). -/
theorem map_readAt_frameOffsets_encmove (p : Half) (k : Block) :
    (frameOffsets 20).map ((runCommand Params.hw (.encmove p) k).readAt Params.hw) =
      20 :: (posFrame optMove (posLo p) (posHi p)).map zextByte := by
  have htake : (padTo 32 (posFrame optMove (posLo p) (posHi p))).take 20 = posFrame optMove (posLo p) (posHi p) :=
    take_length_padTo (bs := posFrame optMove (posLo p) (posHi p)) (by simp)
  rw [map_readAt_frameOffsets (by decide) (by simp [encmove_txbuf]), encmove_txbuf, htake]
  rfl

/-- Settles O49: a run of commands and the frame reads, then a run of commands and the status reads. -/
theorem fullExchangeDeliversFrameAndStatus : Obligations.FullExchangeDeliversFrameAndStatus := by
  intro p bs rest s hmin hmax hs hp lo hi sent b flags
  have hsent : posFrame optMove (posLo p) (posHi p) = sent := by
    rw [posFrame_move, posLo_eq_ofNat, posHi_eq_ofNat]
    rfl
  have hframe := map_readAt_frameOffsets_encmove p (runCommand Params.hw .rxclr s.block)
  have hstatus := map_readAt_statusOffsets_receiveExchange hmin hmax (runCommand Params.hw (.encmove p) s.block)
  rw [hsent] at hframe
  rw [← runCommands_receive_after_encmove] at hstatus
  rw [frameReads_eq_map, statusReads_eq_map] at hp
  have hsend := run_commands_reads hs (frameOffsets_admitted (by decide : 20 ≤ 32))
    (by simpa only [List.append_assoc] using hp)
  have hsteps : bs.length + 30 = ([Instr.rxclr, .encmove p].length + (frameOffsets 20).length)
      + ((bs.map Instr.rxpush ++ [Instr.decack]).length + statusOffsets.length) := by
    simp [statusOffsets]
    omega
  rw [hsteps, run_add_of_next _ _ hsend]
  refine ⟨_, run_commands_reads hs statusOffsets_admitted rfl, rfl, ?_⟩
  exact (congrArg₂ (s.replies ++ · ++ ·) hframe hstatus).trans (congrArg (· ++ _) (List.append_cons _ _ _))

end Sys2Proof.Machine

/-! SUPPORT. The acknowledgement decoder command by command (42_ack_decoder.md R106 to R118): the rule of each
receive-side command, `DECACK` at any parameters, `DECACK` against the pure function, and runs of a receive exchange. -/

namespace Sys2Proof.Machine

/-! ## `RXCLR` and `RXPUSH` -/

/-- Settles O24: the rule of `RXCLR` on this hardware's buffer (R114). -/
theorem rxclrEmptiesTheReceiveBuffer : Obligations.RxclrEmptiesTheReceiveBuffer := by
  intro s
  exact exec_eq .rxclr s

/-- `RXPUSH` below the capacity (R115). -/
theorem rxpush_of_ne {p : Params} {k : Block} (h : k.rxcnt.toNat ≠ p.rxCap) (b : Byte) :
    k.rxpush p b = (k.storeRx b).setErr 0 :=
  if_neg h

/-- `RXPUSH` into a full buffer (R130). -/
theorem rxpush_of_eq {p : Params} {k : Block} (h : k.rxcnt.toNat = p.rxCap) (b : Byte) :
    k.rxpush p b = k.setErr 4 :=
  if_pos h

/-- Settles O25: `storeRx` writes one byte and counts it; a full buffer takes none. -/
theorem rxpushStoresOrOverflows : Obligations.RxpushStoresOrOverflows := by
  intro b s hlen
  refine ⟨fun hlt => ?_, fun hfull => ?_⟩
  · have hexec : exec (.rxpush b) s = .next { s with block := (s.block.storeRx b).setErr 0 } := by
      rw [exec_eq, State.onBlock, runCommand, rxpush_of_ne (Nat.ne_of_lt hlt)]
    have hcnt : (s.block.rxcnt + 1).toNat = s.block.rxcnt.toNat + 1 :=
      BitVec.toNat_add_of_lt (by simp; omega)
    exact ⟨_, hexec, List.length_set.trans hlen, fun _ => byteAt_set b (by omega), hcnt, rfl⟩
  · rw [exec_eq, State.onBlock, runCommand, rxpush_of_eq hfull]
    rfl

/-! ## `DECACK` at any parameters -/

theorem verifyAck_eq_true_iff (p : Params) (bs : List Byte) :
    verifyAck p bs = true ↔ ackAdd p bs = byteAt bs p.ackAddAt ∧ ackXor p bs = byteAt bs p.ackXorAt := by
  simp [verifyAck]

section Decack

variable {p : Params} {k : Block}

/-- Too few bytes (R107, R127). -/
theorem decack_of_lt (h : k.rxcnt.toNat < p.ackMin) :
    k.decack p = (k.setRawcnt k.rxcnt).rejectAck .truncatedFrame :=
  if_pos h

/-- Enough bytes, and no verification. -/
theorem decack_of_unverified (h : p.ackMin ≤ k.rxcnt.toNat) (hv : p.ackVerify = false) :
    k.decack p = (k.setRawcnt k.rxcnt).acceptAck p := by
  rw [Block.decack, if_neg (Nat.not_lt.mpr h), hv]
  rfl

/-- Enough bytes, with verification: the recomputed checksums decide, and the accumulators hold them (R113, R128). -/
theorem decack_of_verifying (h : p.ackMin ≤ k.rxcnt.toNat) (hv : p.ackVerify = true) :
    k.decack p =
      if verifyAck p k.rxbuf = true then
        ((k.setRawcnt k.rxcnt).setAcc (ackAdd p k.rxbuf) (ackXor p k.rxbuf)).acceptAck p
      else ((k.setRawcnt k.rxcnt).setAcc (ackAdd p k.rxbuf) (ackXor p k.rxbuf)).rejectAck .checksumMismatch := by
  obtain ⟨hlt, -⟩ | ⟨-, hoff, -⟩ | ⟨-, -, hok, heq⟩ | ⟨-, -, hbad, heq⟩ := decack_cases p k
  · exact absurd h (Nat.not_le.mpr hlt)
  · exact absurd hv (Bool.eq_false_iff.mp hoff)
  · rw [heq, if_pos hok]
  · rw [heq, if_neg (Bool.eq_false_iff.mp hbad)]

end Decack

/-- A second `DECACK` meets the same case as the first, with the same bytes (R117). -/
theorem decack_decack (p : Params) (k : Block) : (k.decack p).decack p = k.decack p := by
  obtain ⟨hlt, heq⟩ | ⟨hle, hv, heq⟩ | ⟨hle, hv, hok, heq⟩ | ⟨hle, hv, hbad, heq⟩ := decack_cases p k <;> rw [heq]
  · exact decack_of_lt hlt
  · exact decack_of_unverified hle hv
  · refine (decack_of_verifying ?_ hv).trans (if_pos ?_)
    · exact hle
    · exact hok
  · refine (decack_of_verifying ?_ hv).trans (if_neg ?_)
    · exact hle
    · exact Bool.eq_false_iff.mp hbad

/-- Settles O38, from what `DECACK` keeps and its fixed case. -/
theorem decackIsIdempotent : Obligations.DecackIsIdempotent := by
  intro p k
  obtain ⟨-, -, hrxbuf, hrxcnt⟩ := decack_keeps_buffers p k
  exact ⟨hrxbuf, hrxcnt, decack_decack p k⟩

/-- The position register as a number of 16 bits (R108). -/
theorem posOfBytes_eq_ofNat (lo hi : Byte) : posOfBytes lo hi = BitVec.ofNat 16 (hi.toNat * 256 + lo.toNat) := by
  rw [← posOfBytes_toNat, BitVec.ofNat_toNat, BitVec.setWidth_eq]

/-- Settles O40, one rule of `DECACK` per case. -/
theorem decackAtAnyParameters : Obligations.DecackAtAnyParameters := by
  intro p k b seg ca cx cleared decoded
  have hdecoded : (k.setRawcnt k.rxcnt).acceptAck p = decoded := by
    simp only [decoded, ← posOfBytes_eq_ofNat]
    rfl
  refine ⟨fun hlt => decack_of_lt hlt, fun hle hv => ?_, fun hle hv hok => ?_, fun hle hv hbad => ?_⟩
  · exact (decack_of_unverified hle hv).trans hdecoded
  · rw [← hdecoded]
    exact (decack_of_verifying hle hv).trans (if_pos ((verifyAck_eq_true_iff p k.rxbuf).mpr hok))
  · exact (decack_of_verifying hle hv).trans (if_neg (mt (verifyAck_eq_true_iff p k.rxbuf).mp hbad))

/-! ## `DECACK` on this hardware -/

/-- The status that this hardware decodes, its flags as bits of the flag byte (R108 to R112). -/
theorem ackFields_hw (bs : List Byte) (cnt : Byte) : ackFields Params.hw bs cnt =
    { position := posOfBytes (byteAt bs 6) (byteAt bs 7)
      voltage := byteAt bs 8
      torque := byteAt bs 9
      engaged := (byteAt bs 5).getLsbD 0
      slipping := (byteAt bs 5).getLsbD 1
      voltageAlarm := (byteAt bs 5).getLsbD 0 || (byteAt bs 5).getLsbD 1
      rawflags := byteAt bs 5
      rawcnt := cnt } := by
  rw [ackFields, engagedOf_eq, slippingOf_eq, alarmOf_hw]
  rfl

/-- Settles O27: without verification the registers take the fields of the received bytes. -/
theorem decackDecodesTheFields : Obligations.DecackDecodesTheFields := by
  intro s hle
  have hexec : exec .decack s = .next { s with
      block := ((s.block.setRawcnt s.block.rxcnt).setAck
        (ackFields Params.hw s.block.rxbuf s.block.rxcnt)).setErr 0 } := by
    rw [exec_eq, State.onBlock, runCommand, decack_hw_of_le hle]
  rw [ackFields_hw] at hexec
  exact ⟨_, hexec, posOfBytes_toNat _ _, rfl⟩

/-! ## `DECACK` as the pure function `decode_ack` -/

theorem byteAt_take {s : List Byte} {i n : Nat} (h : i < n) : byteAt (s.take n) i = byteAt s i := by
  simp [byteAt, h]

/-- A slice that ends below `n` lies in the first `n` bytes. -/
theorem slice_take {s : List Byte} {i j n : Nat} (h : j < n) : slice (s.take n) i j = slice s i j := by
  rw [slice, slice, List.drop_take, List.take_take, Nat.min_eq_left (by omega)]

theorem padTo_take {cap n : Nat} (h : cap ≤ n) (bs : List Byte) : padTo cap (bs.take n) = padTo cap bs :=
  List.map_congr_left fun _ hi => byteAt_take (Nat.lt_of_lt_of_le (List.mem_range.mp hi) h)

/-- The first 10 bytes hold every field. -/
theorem ackFields_take {n : Nat} (h : 10 ≤ n) (p : Params) (bs : List Byte) (cnt : Byte) :
    ackFields p (bs.take n) cnt = ackFields p bs cnt := by
  rw [← ackFields_padTo (Nat.le_refl 10), padTo_take h, ackFields_padTo (Nat.le_refl 10)]

/-- Verification reads below `P_ACK_MIN` only (R113). -/
theorem verifyAck_take {p : Params} {n : Nat} (hv : p.ackVerify = true) (h : p.ackMin ≤ n) (bs : List Byte) :
    verifyAck p (bs.take n) = verifyAck p bs := by
  obtain ⟨hlast, hadd, hxor⟩ := Params.ackOffsets_lt_ackMin hv
  rw [verifyAck, verifyAck, ackAdd, ackAdd, ackXor, ackXor, ackSegment, ackSegment, slice_take (by omega),
    byteAt_take (by omega), byteAt_take (by omega)]

theorem decodeAck_of_lt {p : Params} {bs : List Byte} (h : bs.length < p.ackMin) :
    decodeAck p bs = .error .truncatedFrame :=
  if_pos h

theorem decodeAck_of_le {p : Params} {bs : List Byte} (h : p.ackMin ≤ bs.length) :
    decodeAck p bs = if p.ackVerify && !verifyAck p bs then .error .checksumMismatch
      else .ok (ackFields p bs (BitVec.ofNat 8 bs.length)) :=
  if_neg (Nat.not_lt.mpr h)

section PureDecoder

variable {p : Params} {k : Block}

/-- As many bytes as `RXCNT` counts have been received. -/
theorem Block.Inv.received_length (h : k.Inv p) : (k.rxbuf.take k.rxcnt.toNat).length = k.rxcnt.toNat := by
  rw [List.length_take, h.rxSize, Nat.min_eq_left h.rxCount]

/-- Where the received bytes are enough, the pure function finds in them what `DECACK` finds in the buffer. -/
theorem Block.Inv.decodeAck_received (hp : p.Legal) (h : k.Inv p) (hle : p.ackMin ≤ k.rxcnt.toNat) :
    decodeAck p (k.rxbuf.take k.rxcnt.toNat) =
      if p.ackVerify && !verifyAck p k.rxbuf then .error .checksumMismatch
      else .ok (ackFields p k.rxbuf k.rxcnt) := by
  have hverify : (p.ackVerify && !verifyAck p (k.rxbuf.take k.rxcnt.toNat)) =
      (p.ackVerify && !verifyAck p k.rxbuf) := by
    cases hv : p.ackVerify with
    | false => rfl
    | true => rw [verifyAck_take hv hle]
  rw [decodeAck_of_le (by rw [h.received_length]; exact hle), hverify, h.received_length,
    ackFields_take (hp.ten_le_ackMin.trans hle), BitVec.ofNat_toNat, BitVec.setWidth_eq]

/-- `DECACK` refines the pure function (R106, R116): a status goes to the ack result registers; an error clears them
and goes to `ERR`. The accumulators may hold what verification recomputed. -/
theorem Block.Inv.decack_refines_decodeAck (hp : p.Legal) (h : k.Inv p) :
    (∃ st a x, decodeAck p (k.rxbuf.take k.rxcnt.toNat) = .ok st ∧ k.decack p = ((k.setAcc a x).setAck st).ok) ∨
      (∃ e a x, decodeAck p (k.rxbuf.take k.rxcnt.toNat) = .error e ∧
        k.decack p = ((k.setRawcnt k.rxcnt).setAcc a x).rejectAck e) := by
  obtain ⟨hlt, heq⟩ | ⟨hle, hv, heq⟩ | ⟨hle, hv, hok, heq⟩ | ⟨hle, hv, hbad, heq⟩ := decack_cases p k
  · exact .inr ⟨_, k.accAdd, k.accXor, decodeAck_of_lt (by rw [h.received_length]; exact hlt), heq⟩
  · exact .inl ⟨_, k.accAdd, k.accXor, by rw [h.decodeAck_received hp hle, hv]; rfl, heq⟩
  · exact .inl ⟨_, _, _, by rw [h.decodeAck_received hp hle, hv, hok]; rfl, heq⟩
  · exact .inr ⟨_, _, _, by rw [h.decodeAck_received hp hle, hv, hbad]; rfl, heq⟩

end PureDecoder

/-- Settles O41: each outcome of the pure function, with the registers `DECACK` leaves for it. -/
theorem decackIsThePureDecoder : Obligations.DecackIsThePureDecoder := by
  intro p k hp h t
  obtain ⟨st, a, x, hdec, heq⟩ | ⟨e, a, x, hdec, heq⟩ := h.decack_refines_decodeAck hp
  · have ht : t = ((k.setAcc a x).setAck st).ok := heq
    refine ⟨fun st' hst => ?_, fun _ h' => (nomatch hdec.symm.trans h')⟩
    cases hdec.symm.trans hst
    rw [ht]
    exact ⟨rfl, rfl, rfl, rfl, rfl, rfl, rfl, rfl, rfl, rfl⟩
  · have ht : t = ((k.setRawcnt k.rxcnt).setAcc a x).rejectAck e := heq
    refine ⟨fun _ h' => (nomatch hdec.symm.trans h'), fun e' he => ?_⟩
    cases hdec.symm.trans he
    rw [ht]
    exact ⟨rfl, rfl⟩

/-! ## A receive exchange of any length -/

/-- A run over a receive exchange: the bytes come in, and `DECACK` decodes what has been kept of them. -/
theorem run_receiveExchange {bs : List Byte} {rest : List Transaction} {s : State} (hs : s.started = true)
    (hp : s.pending = commandWrites (receiveExchange bs) ++ rest) :
    run (bs.length + 2) s = .next { s with
      pending := rest, block := (s.block.receive Params.hw bs).decack Params.hw } := by
  have hlen : (receiveExchange bs).length = bs.length + 2 := by simp [receiveExchange, rxloadCommands]
  rw [← hlen, run_commandWrites hs (fun i _ => decodeOfEncodeIsTheCommand i) hp, receiveExchange, runCommands_append,
    runCommands_rxload (by decide)]
  rfl

/-- Settles O37: all bytes are kept and counted, and they are too few. -/
theorem shortReplyIsReported : Obligations.ShortReplyIsReported := by
  intro bs rest s hlt hs hp
  have hcnt : (s.block.receive Params.hw bs).rxcnt.toNat = bs.length := by
    rw [receive_rxcnt_toNat (by decide), Params.hw_rxCap, Nat.min_eq_left (by omega)]
  have hrun := run_receiveExchange hs hp
  rw [decack_hw_of_lt (by omega)] at hrun
  exact ⟨_, hrun, rfl, rfl, rfl, hcnt, rfl⟩

theorem byteAt_of_getElem? {s : List Byte} {i : Nat} {b : Byte} (h : s[i]? = some b) : byteAt s i = b := by
  rw [byteAt, List.getD_eq_getElem?_getD, h, Option.getD_some]

/-- The two bytes of a position give it back (R57, R108). -/
theorem posOfBytes_posLo_posHi (p : Half) : posOfBytes (posLo p) (posHi p) = p := by
  apply BitVec.eq_of_toNat_eq
  rw [posOfBytes_toNat, posLo_toNat, posHi_toNat]
  omega

/-- Settles O36: `RXBUF` keeps offsets 6 and 7 however long the sequence is, and they are the two bytes of `p`. -/
theorem receivedPositionRoundTrips : Obligations.ReceivedPositionRoundTrips := by
  intro p bs rest s hmin hlo hhi hs hp
  have hcnt : 10 ≤ (s.block.receive Params.hw bs).rxcnt.toNat := by
    rw [receive_rxcnt_toNat (by decide), Params.hw_rxCap]
    omega
  have hpos : posOfBytes (byteAt (padTo 16 bs) 6) (byteAt (padTo 16 bs) 7) = p := by
    rw [byteAt_padTo _ (by decide), byteAt_padTo _ (by decide), byteAt_of_getElem? hlo, byteAt_of_getElem? hhi,
      ← posLo_eq_ofNat, ← posHi_eq_ofNat, posOfBytes_posLo_posHi]
  have hrun := run_receiveExchange hs hp
  rw [decack_hw_of_le hcnt] at hrun
  exact ⟨_, hrun, rfl, hpos, rfl, rfl⟩

end Sys2Proof.Machine

/-! SUPPORT. The refusal of an access outside the contract (20_memory.md R50, 43_system.md R122), and the system
command `NOP` (43_system.md R120). -/

namespace Sys2Proof.Machine

/-! ## Refusals -/

/-- The effect of an access that the contract does not admit never happens (20_memory.md R56). -/
theorem access_refused {width off : Nat} (h : ¬(width = 4 ∧ off % 4 = 0 ∧ off ≤ 0x3FC))
    (effect : Host.Outcome State Fault Refusal) : ∃ why, access width off effect = .refused why := by
  obtain ⟨why, hwhy⟩ := accessRefusal_some h
  exact ⟨why, by rw [access, hwhy]⟩

/-- The step on a transaction outside the contract, whether or not the block has been reset. -/
theorem step_refused_of_not_accepted {s : State} {t : Transaction} {rest : List Transaction}
    (hp : s.pending = t :: rest) (ht : ¬t.Accepted) : ∃ why, step s = .refused why := by
  rw [step_take hp]
  cases t with
  | reset => exact absurd trivial ht
  | read width off =>
    rw [take]
    split
    · exact access_refused ht _
    · exact ⟨_, rfl⟩
  | write width off v =>
    rw [take]
    split
    · exact access_refused ht _
    · exact ⟨_, rfl⟩

/-- Settles O13: the run takes the admitted transactions, and its next step is refused. -/
theorem runWithAnAccessOutsideTheContractIsRefused : Obligations.RunWithAnAccessOutsideTheContractIsRefused := by
  intro s pre rest t n hs hp hpre ht hn
  obtain ⟨m, rfl⟩ : ∃ m, n = pre.length + (m + 1) := ⟨n - pre.length - 1, by omega⟩
  obtain ⟨u, hrun, -, -, hpending⟩ := run_accepted hs hp hpre
  obtain ⟨why, hstep⟩ := step_refused_of_not_accepted hpending ht
  exact ⟨why, by rw [run_add_of_next _ _ hrun, run_succ_of_refused _ hstep]⟩

/-! ## `NOP` -/

/-- Settles O18: the rule of `NOP` on the block is the write of `ERR` (R120). -/
theorem nopWritesErrOnly : Obligations.NopWritesErrOnly := by
  intro s
  exact exec_eq .nop s

end Sys2Proof.Machine

/-! SUPPORT. The result codes of the commands (60_exceptions.md R126, R127, R130, R132). -/

namespace Sys2Proof.Machine

/-- Settles O26: the truncated case of `DECACK` on this hardware, register by register (R127). -/
theorem decackRejectsATruncatedFrame : Obligations.DecackRejectsATruncatedFrame := by
  intro s hlt
  rw [exec_eq, State.onBlock, runCommand, decack_hw_of_lt hlt]
  rfl

/-! ## The code of each command -/

theorem decack_hw_err (k : Block) : (k.decack Params.hw).err = if k.rxcnt.toNat < 10 then 1 else 0 := by
  split
  · next hlt => rw [decack_hw_of_lt hlt, Block.setErr_err]
  · next hge => rw [decack_hw_of_le (Nat.le_of_not_lt hge), Block.setErr_err]

theorem rxpush_hw_err (b : Byte) (k : Block) :
    (k.rxpush Params.hw b).err = if k.rxcnt.toNat = 16 then 4 else 0 := by
  split
  · next hfull => rw [rxpush_of_eq hfull, Block.setErr_err]
  · next hroom => rw [rxpush_of_ne hroom, Block.setErr_err]

/-- The commands that have no error of their own, at any parameters (R132). -/
theorem runCommand_err_of_ne {i : Instr} (hdecack : i ≠ .decack) (hrxpush : ∀ b, i ≠ .rxpush b) (p : Params)
    (k : Block) : (runCommand p i k).err = 0 := by
  cases i with
  | decack => exact absurd rfl hdecack
  | rxpush b => exact absurd rfl (hrxpush b)
  | _ => rfl

/-- Settles O28: the code of `DECACK`, the code of `RXPUSH`, and the code of the commands without an error. -/
theorem everyCommandLeavesItsResultCode : Obligations.EveryCommandLeavesItsResultCode := by
  intro i s
  refine ⟨_, exec_eq i s, ?_⟩
  rw [State.onBlock_block]
  by_cases hdecack : i = .decack
  · subst hdecack
    rw [runCommand, decack_hw_err]
    split
    · next hlt => simp [hlt]
    · next hge => simp [hge]
  · by_cases hrxpush : ∃ b, i = .rxpush b
    · obtain ⟨b, rfl⟩ := hrxpush
      rw [runCommand, rxpush_hw_err]
      split
      · next hfull => simp [hfull]
      · next hroom => simp [hroom]
    · rw [runCommand_err_of_ne hdecack (not_exists.mp hrxpush)]
      simp [hdecack, hrxpush]

end Sys2Proof.Machine

/-! SUPPORT. Reset and the hazards of a host that breaks a duty (70_reset_and_hazards.md R144, R145, R149, R153). -/

namespace Sys2Proof.Machine

/-! ## Before the first reset -/

/-- A block that has not been reset takes nothing but reset (R145). -/
theorem take_of_not_started {s : State} {t : Transaction} (hs : s.started = false) (ht : t ≠ .reset) :
    take t s = .refused .beforeFirstReset := by
  cases t with
  | reset => exact absurd rfl ht
  | read width off => simp [take, hs]
  | write width off v => simp [take, hs]

/-- Settles O14: the port takes the transaction without looking at the state elements. -/
theorem nothingButResetBeforeTheFirstReset : Obligations.NothingButResetBeforeTheFirstReset := by
  intro s t rest hs hp ht
  exact (step_take hp).trans (take_of_not_started (s := s.pop) hs ht)

/-! ## Reads of a block that has just been reset -/

/-- The column "offset" of the register map (10_state.md R35). -/
def Reg.offset : Reg → Nat
  | .cmd => 0x000
  | .status => 0x004
  | .ckadd => 0x008
  | .ckxor => 0x00C
  | .txlen => 0x010
  | .rxcnt => 0x014
  | .ackpos => 0x018
  | .ackvolt => 0x01C
  | .acktorq => 0x020
  | .ackflags => 0x024
  | .ackrawcnt => 0x028
  | .txbuf i => 0x100 + 4 * i
  | .rxbuf i => 0x200 + 4 * i

theorem eq_of_windowIndex {base cap off i : Nat} (ha : (off - base) % 4 = 0)
    (h : windowIndex base cap off = some i) : off = base + 4 * i := by
  unfold windowIndex at h
  split at h
  · cases h; omega
  · cases h

/-- No register stands at two aligned offsets. -/
theorem eq_offset_of_regAt {p : Params} {off : Nat} {r : Reg} (ha : off % 4 = 0) (h : regAt p off = some r) :
    off = r.offset := by
  by_cases hw : 0x02C ≤ off
  · rw [regAt_of_window hw] at h
    split at h
    · next i hi => cases h; exact eq_of_windowIndex (by omega) hi
    · obtain ⟨i, hi, rfl⟩ := Option.map_eq_some_iff.mp h
      exact eq_of_windowIndex (by omega) hi
  · obtain ⟨j, rfl⟩ : ∃ j, off = 4 * j := ⟨off / 4, by omega⟩
    have hj : j < 11 := by omega
    interval_cases j <;> exact congrArg Reg.offset (Option.some.inj h)

/-- Every register but the two accumulators reads 0 after reset (R144). -/
theorem reset_readReg_eq_zero (p : Params) {r : Reg} (hadd : r ≠ .ckadd) (hxor : r ≠ .ckxor) :
    (Block.reset p).readReg r = 0 := by
  cases r with
  | ckadd => exact absurd rfl hadd
  | ckxor => exact absurd rfl hxor
  | status => exact BitVec.eq_of_toNat_eq (statusWord_toNat (Block.reset p))
  | ackflags => exact BitVec.eq_of_toNat_eq (ackFlagsWord_toNat (Block.reset p))
  | txbuf i => exact congrArg zextByte (byteAt_replicate_zero p.txCap i)
  | rxbuf i => exact congrArg zextByte (byteAt_replicate_zero p.rxCap i)
  | _ => rfl

/-- The reset column of R35. -/
theorem reset_readAt (p : Params) {off : Nat} (ha : off % 4 = 0) :
    (Block.reset p).readAt p off = if off = 0x008 then 0xAA else if off = 0x00C then 0x55 else 0 := by
  split_ifs with hadd hxor
  · subst hadd; rfl
  · subst hxor; rfl
  · rw [Block.readAt]
    cases hr : regAt p off with
    | none => rfl
    | some r =>
      have hoff := eq_offset_of_regAt ha hr
      exact reset_readReg_eq_zero p (by rintro rfl; exact hadd hoff) (by rintro rfl; exact hxor hoff)

/-- Settles O15: the step takes the reset, whatever the state was, and the reset block reads as R35's reset column. -/
theorem resetSetsEveryElement : Obligations.ResetSetsEveryElement := by
  intro s rest hp
  refine ⟨s.pop.takeReset, step_reset hp, rfl, ?_, rfl, rfl, fun off ha _ => reset_readAt Params.hw ha⟩
  rw [State.takeReset_pending, State.pop_pending, hp, List.tail_cons]

/-! ## Pushes after an acknowledgement that was not cleared -/

section Pushes

variable {p : Params} {k : Block}

/-- One more byte is counted, up to the capacity (R115). -/
theorem rxpush_rxcnt_toNat (hcap : p.rxCap < 256) (hcnt : k.rxcnt.toNat ≤ p.rxCap) (b : Byte) :
    (k.rxpush p b).rxcnt.toNat = min (k.rxcnt.toNat + 1) p.rxCap := by
  by_cases hfull : k.rxcnt.toNat = p.rxCap
  · rw [rxpush_of_eq hfull, Block.setErr_rxcnt]
    omega
  · have hnext : (k.rxcnt + 1).toNat = k.rxcnt.toNat + 1 := BitVec.toNat_add_of_lt (by simp; omega)
    rw [rxpush_of_ne hfull, Block.setErr_rxcnt, Block.storeRx, Block.setRx_rxcnt, hnext]
    omega

/-- A push stores at or above `RXCNT`, so the bytes below it stay (R115). -/
theorem rxpush_take_rxbuf {n : Nat} (h : n ≤ k.rxcnt.toNat) (b : Byte) :
    (k.rxpush p b).rxbuf.take n = k.rxbuf.take n := by
  obtain ⟨-, heq⟩ | ⟨-, heq⟩ := rxpush_cases p b k <;> rw [heq]
  · rfl
  · exact List.take_set_of_le h

/-- Pushes of any number of bytes: as many are counted as fit, and the bytes already received stay (R149, R153). -/
theorem runCommands_rxpushes (hcap : p.rxCap < 256) (hcnt : k.rxcnt.toNat ≤ p.rxCap) {n : Nat}
    (hn : n ≤ k.rxcnt.toNat) (bs : List Byte) :
    (runCommands p (bs.map .rxpush) k).rxcnt.toNat = min (k.rxcnt.toNat + bs.length) p.rxCap ∧
      (runCommands p (bs.map .rxpush) k).rxbuf.take n = k.rxbuf.take n := by
  induction bs generalizing k with
  | nil => exact ⟨(Nat.min_eq_left hcnt).symm, rfl⟩
  | cons b bs ih =>
    have hpush := rxpush_rxcnt_toNat hcap hcnt b
    obtain ⟨hcount, hbytes⟩ := ih (k := k.rxpush p b) (by omega) (by omega)
    rw [List.map_cons, runCommands_cons, runCommand, hcount, hbytes, hpush, rxpush_take_rxbuf hn, List.length_cons]
    exact ⟨by omega, rfl⟩

end Pushes

/-- The fields of an acknowledgement depend on its first 10 bytes alone (R88). -/
theorem ackFields_congr {bs cs : List Byte} (h : bs.take 10 = cs.take 10) (p : Params) (cnt : Byte) :
    ackFields p bs cnt = ackFields p cs cnt := by
  rw [← ackFields_take (Nat.le_refl 10), h, ackFields_take (Nat.le_refl 10)]

/-- Settles O39: the pushes leave the first 10 bytes, and those fix every field that `DECACK` decodes. -/
theorem withoutRxclrTheOldFieldsAreDecoded : Obligations.WithoutRxclrTheOldFieldsAreDecoded := by
  intro bs rest s u hs hinv hle hp hu
  obtain ⟨hcount, hbytes⟩ := runCommands_rxpushes (p := Params.hw) (by decide) hinv.rxCount hle bs
  rw [Params.hw_rxCap] at hcount
  have hlen : (bs.map Instr.rxpush ++ [Instr.decack]).length = bs.length + 1 := by simp
  have hrun := run_commandWrites hs (fun i _ => decodeOfEncodeIsTheCommand i) hp
  rw [hlen, runCommands_append, runCommands_cons, runCommands_nil, runCommand, decack_hw_of_le (by omega),
    ackFields_congr hbytes] at hrun
  obtain ⟨hblock, -⟩ := exec_next hu
  rw [runCommand, decack_hw_of_le hle] at hblock
  rw [hblock]
  exact ⟨_, hrun, rfl, rfl, rfl, rfl, rfl, rfl, rfl, hcount⟩

end Sys2Proof.Machine

/-! SUPPORT. The command words of the test vectors (30_encoding.md section 1, 95_test_vectors.md L2.1). -/

namespace Sys2Proof.Machine

/-- Settles O6: each word has the four fields of its command, and those fix what the decoder answers. -/
theorem writtenOutWordsDecode : Obligations.WrittenOutWordsDecode := by
  refine ⟨?nop, ?ckseed, ?ckbyte, ?encasn, ?encpoll, ?encmove, ?rxclr, ?rxpush, ?decack⟩
  all_goals exact decode_of_fields rfl

end Sys2Proof.Machine
